-- ==== Sys2Proof/Word.lean ====
section
/-! DEFINITION. The word types of chaos_hash_engine (00_scope.md R10 to R12): bytes, 64-bit words and binary64 patterns. -/

namespace Sys2Proof

/-- A byte (`u8` of 00_scope.md R10): a message byte, or one lane of `DATA`. -/
abbrev Byte := BitVec 8

/-- A 64-bit word (`u64` of 00_scope.md R10): a register value, a command, an accumulator or output word.
`+`, `*` and `^^^` on it are the wrapping `+64`, `*64` and `^` of 00_scope.md R11. -/
abbrev Word := BitVec 64

/-- The 64-bit pattern of an IEEE 754 binary64 number (00_scope.md R12, R15).
Its arithmetic is in Machine/Binary64.lean. -/
abbrev Real64 := BitVec 64

end Sys2Proof
end

