-- ==== Sys2Proof/Syntax.lean ====
section
/-! DEFINITION. The five commands of spec/opcode_table.json (30_encoding.md R72), one constructor per row, and the two kinds of
ILLEGAL value (30_encoding.md R73). -/

namespace Sys2Proof

/-- A command with its operands as 30_encoding.md R70 assembles them. -/
inductive Instr where
  /-- NOP, format N (30_encoding.md R66). -/
  | nop
  /-- INIT, format C: `outbits` is `v[31:16]`, any 16-bit value (30_encoding.md R67). -/
  | init (outbits : BitVec 16)
  /-- ABSORB, format B: `b` is `v[15:8]` (30_encoding.md R68). -/
  | absorb (b : Byte)
  /-- ABSORBW, format W: `cnt` is `v[10:8] + 1`, the number of bytes taken from `PDATA` (30_encoding.md R69, R70). -/
  | absorbw (cnt : Nat)
  /-- FINALIZE, format N (30_encoding.md R66). -/
  | finalize
deriving DecidableEq, Repr

/-- Why a value decodes to ILLEGAL: the two kinds of 30_encoding.md R73. -/
inductive Illegal where
  /-- `OPC` is 0x05 to 0xFF. -/
  | unknownOpcode
  /-- `OPC` is defined and a reserved bit of its format is not 0. -/
  | reservedBit
deriving DecidableEq, Repr

end Sys2Proof
end

