-- ==== Sys2Proof/WellFormed.lean ====
section
/-! DEFINITION. Which command terms have an encoding. The types of Syntax.lean already bound `outbits` (16 bits) and `b` (8 bits).
The one check left is the byte count of ABSORBW: 1 to 8 (30_encoding.md R70, R76). -/

namespace Sys2Proof

/-- The range check of 30_encoding.md R76: `COUNT` is from 1 to 8. An `outbits` that is no legal output length is well-formed
(30_encoding.md R67): it fails when INIT executes, not here. -/
def Instr.wellFormed : Instr → Bool
  | .nop => true
  | .init _ => true
  | .absorb _ => true
  | .absorbw cnt => decide (1 ≤ cnt) && decide (cnt ≤ 8)
  | .finalize => true

end Sys2Proof
end

