-- ==== Sys2Proof/Decode.lean ====
section
/-! DEFINITION. Decoding of a 64-bit command value (30_encoding.md R65 to R73), the encoder (R76), and the disassembler (R78). -/

namespace Sys2Proof

/-- `OPC`, bits `v[7:0]` (30_encoding.md R65). -/
def opcField (v : Word) : BitVec 8 := v.extractLsb' 0 8

/-- `OUTBITS`, bits `v[31:16]` of format C (30_encoding.md R67). -/
def outbitsField (v : Word) : BitVec 16 := v.extractLsb' 16 16

/-- `BYTE`, bits `v[15:8]` of format B (30_encoding.md R68). -/
def byteField (v : Word) : Byte := v.extractLsb' 8 8

/-- `CNTM1`, bits `v[10:8]` of format W (30_encoding.md R69). -/
def cntm1Field (v : Word) : BitVec 3 := v.extractLsb' 8 3

/-- The reserved bits of format N are `v[63:8]` (30_encoding.md R66). -/
def reservedClearN (v : Word) : Bool := v.extractLsb' 8 56 == 0#56

/-- The reserved bits of format C are `v[63:32]` and `v[15:8]` (30_encoding.md R67). -/
def reservedClearC (v : Word) : Bool := v.extractLsb' 32 32 == 0#32 && v.extractLsb' 8 8 == 0#8

/-- The reserved bits of format B are `v[63:16]` (30_encoding.md R68). -/
def reservedClearB (v : Word) : Bool := v.extractLsb' 16 48 == 0#48

/-- The reserved bits of format W are `v[63:11]` (30_encoding.md R69). -/
def reservedClearW (v : Word) : Bool := v.extractLsb' 11 53 == 0#53

/-- The command if its reserved bits are clear, ILLEGAL otherwise (30_encoding.md R73). -/
def ifClear (clear : Bool) (i : Instr) : Except Illegal Instr :=
  if clear then .ok i else .error .reservedBit

/-- `decode` of 30_encoding.md R71: total, five commands or ILLEGAL. -/
def decode (v : Word) : Except Illegal Instr :=
  if opcField v = 0x00#8 then ifClear (reservedClearN v) .nop
  else if opcField v = 0x01#8 then ifClear (reservedClearC v) (.init (outbitsField v))
  else if opcField v = 0x02#8 then ifClear (reservedClearB v) (.absorb (byteField v))
  else if opcField v = 0x03#8 then ifClear (reservedClearW v) (.absorbw ((cntm1Field v).toNat + 1))
  else if opcField v = 0x04#8 then ifClear (reservedClearN v) .finalize
  else .error .unknownOpcode

/-- The encodings of 30_encoding.md R76. Outside `wellFormed` the value is not an encoding. -/
def encode : Instr → Word
  | .nop => 0x0#64
  | .init outbits => (outbits.setWidth 64 <<< 16) ||| 0x01#64
  | .absorb b => (b.setWidth 64 <<< 8) ||| 0x02#64
  | .absorbw cnt => (BitVec.ofNat 64 (cnt - 1) <<< 8) ||| 0x03#64
  | .finalize => 0x04#64

/-- The instruction this decoder reads from the `nbits` bits `w`, numbered as spec/opcode_table.json numbers them: a command is one
64-bit register value with bit 0 the least significant (30_encoding.md R65), so no byte is reordered. Bits above `nbits` are 0.
More than 64 bits are no command (30_encoding.md R75). -/
def decodeTableWord (nbits w : Nat) : Option Instr :=
  if nbits ≤ 64 then
    match decode (BitVec.ofNat 64 (w % 2 ^ nbits)) with
    | .ok i => some i
    | .error _ => none
  else none

/-- The lowercase hexadecimal digit of a value below 16 (46_output_squeezer.md R146). -/
def hexDigit (n : Nat) : Char :=
  ['0', '1', '2', '3', '4', '5', '6', '7', '8', '9', 'a', 'b', 'c', 'd', 'e', 'f'].getD n '0'

/-- `hex16` of 46_output_squeezer.md R146: 16 lowercase digits, zero-padded, most significant nibble first. -/
def hex16 (w : Word) : String :=
  String.ofList ((List.range 16).map fun k => hexDigit ((w.toNat >>> (4 * (15 - k))) % 16))

/-- The assembler text of a command (30_encoding.md R76, R78). R76 writes `BITS` in decimal and allows `BYTE` and `COUNT` in more than
one form; decimal is the form written here (DESIGN CHOICE, assumption 24). -/
def mnemonicText : Instr → String
  | .nop => "nop"
  | .init outbits => "init " ++ toString outbits.toNat
  | .absorb b => "absorb " ++ toString b.toNat
  | .absorbw cnt => "absorbw " ++ toString cnt
  | .finalize => "finalize"

/-- Disassembly (30_encoding.md R78): the mnemonic of a defined row, `.illegal 0xVALUE` for every other value. R78 gives VALUE no width
and no letter case; 16 lowercase digits, zero-padded, are written here (DESIGN CHOICE, assumption 24). -/
def disassemble (v : Word) : String :=
  match decode v with
  | .ok i => mnemonicText i
  | .error _ => ".illegal 0x" ++ hex16 v

end Sys2Proof
end

