-- ==== Sys2Proof/Config.lean ====
section
/-! DEFINITION. What an implementation fixes: the sizes of 00_scope.md R6, the platform parameter `CHE_BASE` of 00_scope.md R9,
and the free values (constants without a body, so that no proof can see their value). -/

namespace Sys2Proof.Config

/-- `NS`: elements of the state vector (00_scope.md R6). -/
abbrev ns : Nat := 512

/-- `HD`: history depth in snapshots (00_scope.md R6). -/
abbrev hd : Nat := 4

/-- `AW` and `OUTW_MAX`: accumulator words and output words (00_scope.md R6). -/
abbrev aw : Nat := 8

/-- `CHE_BASE`: the base address of the register window in the host's address space.
00_scope.md R9 and 20_memory.md R45 leave it to the platform (93_implementation_defined.md I9). See assumption 4. -/
opaque cheBase : Nat

/-- The binary64 operations of 00_scope.md R12 that can deliver a NaN. -/
inductive FloatOp where
  | add | sub | mul | div | sqrt | fmod
deriving DecidableEq, Repr

/-- FREE VALUE: the sign and payload bits of the NaN an operation delivers (93_implementation_defined.md I2: any value, never
observed). The operation sets the exponent and quiet bits itself. See assumption 6. -/
opaque nanBits : FloatOp → Real64 → Real64 → BitVec 64

/-- FREE VALUE: what `trunc` of a NaN or an infinity delivers to the logistic map driver. 42_logistic_map_driver.md R108 never
truncates one (93_implementation_defined.md I5). See assumption 7. -/
opaque truncNonFinite : Real64 → Nat

end Sys2Proof.Config
end

