-- ==== Sys2Proof/Machine/Constants.lean ====
section
/-! DEFINITION. The numeric constants of 00_scope.md R7 and the sizes of R6 that no type holds, under the spec's names. Constants, not
state and not parameters (10_state.md R43, 93_implementation_defined.md I17). -/

namespace Sys2Proof.Machine

/-- `CENTER` (00_scope.md R6). -/
def center : Nat := 256
/-- `MINLEN` (00_scope.md R6). -/
def minLen : Nat := 64
/-- `SHMOD` (00_scope.md R6). -/
def shMod : Nat := 128
/-- `RENORM_PERIOD` (00_scope.md R6). -/
def renormPeriod : Nat := 8

/-- `PAD_EMPTY_SEED` (00_scope.md R7). -/
def padEmptySeed : Word := 0xDEADBEEF#64
/-- `LCG_MUL` (00_scope.md R7). -/
def lcgMul : Word := 0x5851F42D4C957F2D#64
/-- `LCG_INC` (00_scope.md R7). -/
def lcgInc : Word := 1#64

/-- `LOGI_R`, 3.99 (00_scope.md R7). -/
def logiR : Real64 := 0x400FEB851EB851EC#64
/-- `LOGI_SPAN`, 256.0 (00_scope.md R7). -/
def logiSpan : Real64 := 0x4070000000000000#64
/-- `LOGI_DIV`, 64.0 (00_scope.md R7). -/
def logiDiv : Real64 := 0x4050000000000000#64
/-- `LOGI_ITERS` (00_scope.md R7). -/
def logiIters : Nat := 3

/-- `COIN0`, the mixing matrix's first row: 0.5 four times (00_scope.md R7, 10_state.md R28). Rows 1 to 3 are in no source and are
not stored (92_eei_decisions.md D24). -/
def coin0 : Real64 := 0x3FE0000000000000#64
/-- The second weight of the row `COIN`. -/
def coin1 : Real64 := 0x3FE0000000000000#64
/-- The third weight of the row `COIN`. -/
def coin2 : Real64 := 0x3FE0000000000000#64
/-- The fourth weight of the row `COIN`. -/
def coin3 : Real64 := 0x3FE0000000000000#64
/-- `BLEND_NEW`, 0.6 (00_scope.md R7). -/
def blendNew : Real64 := 0x3FE3333333333333#64
/-- `BLEND_OLD`, 0.25 (00_scope.md R7). -/
def blendOld : Real64 := 0x3FD0000000000000#64
/-- `BLEND_MID`, 0.15 (00_scope.md R7). -/
def blendMid : Real64 := 0x3FC3333333333333#64

/-- `DEGEN_EPS`, 1e-300 (00_scope.md R7). -/
def degenEps : Real64 := 0x01A56E1FC2F8F359#64
/-- `NORM_EPS`, 1e-15 (00_scope.md R7). -/
def normEps : Real64 := 0x3CD203AF9EE75616#64

/-- `QSCALE`, 4294967295.0 (00_scope.md R7). -/
def qScale : Real64 := 0x41EFFFFFFFE00000#64
/-- `CMUL` (00_scope.md R7). -/
def cMul : Word := 0xBF58476D1CE4E5B9#64
/-- `CROT` (00_scope.md R7). -/
def cRot : Nat := 13
/-- `CADD` (00_scope.md R7). -/
def cAdd : Word := 0x94D049BB133111EB#64
/-- `CROTMOD` (00_scope.md R7). -/
def cRotMod : Nat := 63
/-- `SMUL` (00_scope.md R7). -/
def sMul : Word := 0x632BE59BD9B4E019#64
/-- `SROT` (00_scope.md R7). -/
def sRot : Nat := 21

/-- +0.0. -/
def posZero : Real64 := 0#64
/-- 1.0, the initial amplitude (43_chaotic_state_evolver.md R114). -/
def one : Real64 := 0x3FF0000000000000#64

end Sys2Proof.Machine
end

