-- ==== Sys2Proof/Machine/Binary64.lean ====
section
/-! DEFINITION. IEEE 754 binary64 (00_scope.md R12, R15): exact arithmetic on integers in units of 2^-1074, then one rounding to
nearest, ties to even. Subnormals are kept, nothing traps, no two operations are fused (92_eei_decisions.md D18).

Every finite binary64 is `mag * 2^-1074` for a natural `mag`, so a sum, product, quotient or root is exact on naturals and is
rounded once by `roundUnits`. -/

namespace Sys2Proof.Machine

/-- What a 64-bit pattern means: a NaN, an infinity, or a sign and a magnitude in units of 2^-1074. -/
inductive Datum where
  | nan
  | inf (neg : Bool)
  | fin (neg : Bool) (mag : Nat)
deriving DecidableEq, Repr

/-- 1.0 in units of 2^-1074. -/
def unit64 : Nat := 2 ^ 1074

/-- The meaning of a pattern: sign bit 63, exponent field bits 62:52, fraction bits 51:0. -/
def datumOf (w : Real64) : Datum :=
  let neg := w.msb
  let expo := (w.extractLsb' 52 11).toNat
  let frac := (w.extractLsb' 0 52).toNat
  if expo = 2047 then (if frac = 0 then .inf neg else .nan)
  else if expo = 0 then .fin neg frac
  else .fin neg ((2 ^ 52 + frac) * 2 ^ (expo - 1))

/-- The base-2 logarithm of `n`, rounded down, for `0 < n < 2^(2^k)`. It halves the range `k` times, so a kernel evaluates it quickly;
Laws/Binary64.lean proves it equal to `Nat.log2`. -/
def bitLog : Nat → Nat → Nat
  | 0, _ => 0
  | k + 1, n => if 2 ^ 2 ^ k ≤ n then 2 ^ k + bitLog k (n / 2 ^ 2 ^ k) else bitLog k n

/-- The exponent and fraction fields, as one number, of the binary64 nearest `num / den` units, ties to even. Below 2^53 units the
spacing is one unit (subnormals and the two lowest binades). Above, it is the power of two that leaves 53 bits. A result of
`2047 * 2^52` or more is an overflow. -/
def roundUnits (num den : Nat) : Nat :=
  let q0 := num / den
  let e := if q0 < 2 ^ 53 then 0 else bitLog 12 q0 - 52
  let d := den * 2 ^ e
  let q := num / d
  let r := num % d
  let up := decide (d < 2 * r) || (decide (2 * r = d) && decide (q % 2 = 1))
  e * 2 ^ 52 + (if up then q + 1 else q)

/-- The pattern with this sign bit and these exponent and fraction fields, an infinity if they overflow. -/
def packFields (neg : Bool) (fields : Nat) : Real64 :=
  BitVec.ofBool neg ++ BitVec.ofNat 63 (if fields < 2047 * 2 ^ 52 then fields else 2047 * 2 ^ 52)

/-- `num / den` units with a sign, rounded once. -/
def roundSigned (neg : Bool) (num den : Nat) : Real64 := packFields neg (roundUnits num den)

/-- An infinity. -/
def infinity (neg : Bool) : Real64 := packFields neg (2047 * 2 ^ 52)

/-- The quiet NaN an operation delivers. Its sign and payload are free (93_implementation_defined.md I2). -/
def quietNaN (op : Config.FloatOp) (a b : Real64) : Real64 :=
  Config.nanBits op a b ||| 0x7FF8000000000000#64

/-- The sum of two data, for an operation that names itself in the NaN it delivers. An exact zero sum of opposite signs is +0.0. -/
def addData (nan : Real64) (x y : Datum) : Real64 :=
  match x, y with
  | .nan, _ => nan
  | _, .nan => nan
  | .inf s, .inf t => if s = t then infinity s else nan
  | .inf s, .fin _ _ => infinity s
  | .fin _ _, .inf t => infinity t
  | .fin s m, .fin t n =>
    if s = t then roundSigned s (m + n) 1
    else if m = n then posZero
    else if n < m then roundSigned s (m - n) 1
    else roundSigned t (n - m) 1

/-- The same datum with the other sign. -/
def Datum.negate : Datum → Datum
  | .nan => .nan
  | .inf s => .inf (!s)
  | .fin s m => .fin (!s) m

/-- `fadd` (00_scope.md R12). -/
def fadd (a b : Real64) : Real64 := addData (quietNaN .add a b) (datumOf a) (datumOf b)

/-- `fsub` (00_scope.md R12). -/
def fsub (a b : Real64) : Real64 := addData (quietNaN .sub a b) (datumOf a) (datumOf b).negate

/-- `fmul` (00_scope.md R12). -/
def fmul (a b : Real64) : Real64 :=
  match datumOf a, datumOf b with
  | .nan, _ => quietNaN .mul a b
  | _, .nan => quietNaN .mul a b
  | .inf s, .inf t => infinity (s != t)
  | .inf s, .fin t n => if n = 0 then quietNaN .mul a b else infinity (s != t)
  | .fin s m, .inf t => if m = 0 then quietNaN .mul a b else infinity (s != t)
  | .fin s m, .fin t n => roundSigned (s != t) (m * n) unit64

/-- `fdiv` (00_scope.md R12). A non-zero number over a zero is an infinity, without a trap (00_scope.md R15). -/
def fdiv (a b : Real64) : Real64 :=
  match datumOf a, datumOf b with
  | .nan, _ => quietNaN .div a b
  | _, .nan => quietNaN .div a b
  | .inf _, .inf _ => quietNaN .div a b
  | .inf s, .fin t _ => infinity (s != t)
  | .fin s _, .inf t => roundSigned (s != t) 0 1
  | .fin s m, .fin t n =>
    if n = 0 then (if m = 0 then quietNaN .div a b else infinity (s != t))
    else roundSigned (s != t) (m * unit64) n

/-- The greatest `q + x` with `x < 2^bits` whose square is at most `m`, found bit by bit from the top; `q` is the part found. -/
def rootBits (m : Nat) : Nat → Nat → Nat
  | 0, q => q
  | bits + 1, q => if (q + 2 ^ bits) * (q + 2 ^ bits) ≤ m then rootBits m bits (q + 2 ^ bits) else rootBits m bits q

/-- The fields of the binary64 nearest the square root of `mag` units, for `mag > 0`. The radicand in squared units is
`mag * 2^1074`, so its root has at least 538 bits and 53 of them are kept. -/
def rootFields (mag : Nat) : Nat :=
  let n := mag * unit64
  let e := bitLog 12 n / 2 - 52
  let q := rootBits (n / 4 ^ e) 53 0
  e * 2 ^ 52 + (if (2 * q + 1) * (2 * q + 1) * 4 ^ e < 4 * n then q + 1 else q)

/-- `fsqrt` (00_scope.md R12). -/
def fsqrt (a : Real64) : Real64 :=
  match datumOf a with
  | .nan => quietNaN .sqrt a a
  | .inf false => infinity false
  | .inf true => quietNaN .sqrt a a
  | .fin s m => if m = 0 then a else if s then quietNaN .sqrt a a else packFields false (rootFields m)

/-- `fmod` (00_scope.md R12): `a - m * trunc(a / m)` computed exactly, with the sign of `a`. -/
def fmod (a m : Real64) : Real64 :=
  match datumOf a, datumOf m with
  | .nan, _ => quietNaN .fmod a m
  | _, .nan => quietNaN .fmod a m
  | .inf _, _ => quietNaN .fmod a m
  | .fin _ _, .inf _ => a
  | .fin s x, .fin _ y => if y = 0 then quietNaN .fmod a m else roundSigned s (x % y) 1

/-- `float(n)` (00_scope.md R12): exact for every integer of the spec. -/
def floatOfNat (n : Nat) : Real64 := roundSigned false (n * unit64) 1

/-- `trunc(a)` (00_scope.md R12): the integer nearest `a` toward zero, none for a NaN or an infinity. -/
def trunc (a : Real64) : Option Int :=
  match datumOf a with
  | .nan => none
  | .inf _ => none
  | .fin s m => some (if s then -((m / unit64 : Nat) : Int) else ((m / unit64 : Nat) : Int))

/-- `isfinite(a)` (00_scope.md R12). -/
def isFinite (a : Real64) : Bool :=
  match datumOf a with
  | .nan => false
  | .inf _ => false
  | .fin _ _ => true

/-- `x < y` on data: false with a NaN (44_complex_state_normalizer.md R129), and the two zeros are equal. -/
def Datum.less : Datum → Datum → Bool
  | .nan, _ => false
  | _, .nan => false
  | .inf s, .inf t => s && !t
  | .inf s, .fin _ _ => s
  | .fin _ _, .inf t => !t
  | .fin false m, .fin false n => decide (m < n)
  | .fin true m, .fin true n => decide (n < m)
  | .fin true m, .fin false n => decide (0 < m + n)
  | .fin false _, .fin true _ => false

/-- The IEEE comparison `a < b` (00_scope.md R15): false with a NaN. -/
def flt (a b : Real64) : Bool := (datumOf a).less (datumOf b)

/-- The IEEE comparison `a <= b` (00_scope.md R15): false with a NaN. -/
def fle (a b : Real64) : Bool :=
  match datumOf a, datumOf b with
  | .nan, _ => false
  | _, .nan => false
  | x, y => !y.less x

end Sys2Proof.Machine
end

