-- ==== Sys2Proof/Machine/State.lean ====
section
/-! DEFINITION. The state of chaos_hash_engine (10_state.md), the events of the outside world, the faults and refusals, and the
state right after reset (10_state.md R42). -/

namespace Sys2Proof.Machine

/-- A store of exactly `n` cells (20_memory.md R63). The length is part of the type, so no operation has to preserve it by proof. -/
structure Bank (n : Nat) (α : Type) where
  cells : List α
  size : cells.length = n
deriving DecidableEq, Repr

/-- A bank with the same value in every cell. -/
def Bank.replicate (n : Nat) {α : Type} (a : α) : Bank n α := ⟨List.replicate n a, List.length_replicate⟩

/-- A complex element: a pair of binary64 patterns (00_scope.md R13). -/
structure Cplx where
  re : Real64
  im : Real64
deriving DecidableEq, Repr

/-- A vector of 512 complex amplitudes: the state vector or one snapshot (10_state.md R26, R27). -/
abbrev Amps := Bank Config.ns Cplx

/-- `PHASE` (10_state.md R21). -/
inductive Phase where
  /-- 0: no context open. -/
  | idle
  /-- 1: context open, bytes may be absorbed. -/
  | absorb
  /-- 2: digest valid in `DIG`. -/
  | done
  /-- 3: an error is recorded in `ERRCODE`. -/
  | error
deriving DecidableEq, Repr

/-- The causes `ERRCODE` can hold (60_exceptions.md R154). The reserved codes 0x05 to 0xFF are never written, and this type makes a
state that holds one impossible (93_implementation_defined.md I6). -/
inductive ErrCode where
  /-- 0x00: no error recorded. -/
  | none
  /-- 0x01: INIT with an illegal `output_bits` (60_exceptions.md R151). -/
  | cfgInvalid
  /-- 0x02: ABSORB, ABSORBW or FINALIZE outside phase ABSORB (60_exceptions.md R155). -/
  | sequence
  /-- 0x03: a `CMD` value that decodes as ILLEGAL (60_exceptions.md R156). -/
  | badCmd
  /-- 0x04: a `CMD` write while `BUSY = 1` (60_exceptions.md R157). -/
  | overrun
deriving DecidableEq, Repr

/-- What the outside world does next (10_state.md R20): the host's accesses at host addresses, the engine's turn, and reset. -/
inductive Event where
  /-- The host reads `width` bytes at a host address (20_memory.md R47). -/
  | read (addr width : Nat)
  /-- The host writes `width` bytes of value `v` at a host address (20_memory.md R48). -/
  | write (addr width : Nat) (v : Word)
  /-- The host's polling loop `wait` (30_encoding.md R77): it reads `STATUS` until bit 0 of the value read is 0. -/
  | wait
  /-- The engine agent's turn: one engine step if `BUSY = 1`, nothing otherwise (20_memory.md R58). -/
  | engine
  /-- The platform's reset input (70_reset_and_hazards.md R170). -/
  | reset
deriving DecidableEq, Repr

/-- The bus's answer to one host access. -/
inductive BusReply where
  /-- A normal response to a read, with the value read (20_memory.md R47). -/
  | value (v : Word)
  /-- A normal response to a write (20_memory.md R48). -/
  | written
  /-- The bus error response, with the value a read so answered returns (20_memory.md R49). -/
  | busError (v : Word)
  /-- The address is outside the window, and the access never reached the engine (20_memory.md R50). -/
  | outside
deriving DecidableEq, Repr

/-- Why an access or a step ends in a fault. -/
inductive Fault where
  /-- 93_implementation_defined.md I11: a host access whose width is not 8 bytes or whose offset is not a multiple of 8. Raised by
  `memRead` and `memWrite` as the outcome of that access. The step that performs the access records it as the bus's reply and goes on
  (20_memory.md R49 changes no state). Safe. -/
  | busError
  /-- 93_implementation_defined.md I4: the compressor's `trunc` of a product that is NaN, infinite, negative or at least 2^64
  (45_amplitude_compressor.md R139 asks a model to fault). Raised by FINALIZE only. Safe: the machine stops where the spec gives no
  value. -/
  | quantRange
deriving DecidableEq, Repr

/-- Why a step is refused. -/
inductive Refusal where
  /-- Raised by `exec` for an instruction that has no meaning yet. No arm raises it: every instruction has its meaning. Safe. -/
  | notModelled (mnemonic : String)
deriving DecidableEq, Repr

/-- The machine's state: every piece that 10_state.md names, and two fields of the model's own (`agenda`, `replies`) that hold the
outside world. -/
structure State where
  /-- `PHASE`, the sequencer phase (10_state.md R21). -/
  phase : Phase
  /-- `BUSY`: a command is pending (10_state.md R22). -/
  busy : Bool
  /-- `PCMD`: the whole 64-bit value written to `CMD` (10_state.md R22). -/
  pcmd : Word
  /-- `PDATA`: the copy of `DATA` taken at acceptance (10_state.md R22). -/
  pdata : Word
  /-- `OVR`, the overrun latch (10_state.md R23). -/
  ovr : Bool
  /-- `ERRCODE` (10_state.md R24). -/
  errcode : ErrCode
  /-- `OUTBITS`, the output length (10_state.md R25). -/
  outbits : BitVec 16
  /-- `OW`, the number of output words (10_state.md R25). -/
  ow : BitVec 4
  /-- `S`, the state vector (10_state.md R26). -/
  amps : Amps
  /-- `HB[0..3]`, the four history banks (10_state.md R27). -/
  hb : Bank Config.hd Amps
  /-- `HPTR`, the history write cursor (10_state.md R27). -/
  hptr : BitVec 2
  /-- `POS`, the position counter (10_state.md R29). -/
  pos : Word
  /-- `LONG`: the context has absorbed at least 64 bytes (10_state.md R30). -/
  long : Bool
  /-- `SUM`, the wrapping sum of the message bytes (10_state.md R31). -/
  sum : Word
  /-- `ACC[0..7]`, the accumulator (10_state.md R32). -/
  acc : Bank Config.aw Word
  /-- `DIG[0..7]`, the output words (10_state.md R33). -/
  dig : Bank Config.aw Word
  /-- `DATA`, the host-writable data register (10_state.md R34). -/
  data : Word
  /-- THE MODEL'S OWN FIELD, not the spec's: what the outside world does next, first event first. -/
  agenda : List Event
  /-- THE MODEL'S OWN FIELD, not the spec's: the bus's answers to the host accesses so far, newest first. -/
  replies : List BusReply
deriving DecidableEq, Repr

/-- The complex zero with both parts +0.0. -/
def Cplx.zero : Cplx := ⟨0#64, 0#64⟩

/-- The state right after reset (10_state.md R42, 70_reset_and_hazards.md R170). The spec leaves `S` and `HB` unspecified; they are
+0.0 here (DESIGN CHOICE, unsafe: assumption 1). Nothing is on the agenda and no access has been answered. -/
def State.reset : State where
  phase := .idle
  busy := false
  pcmd := 0
  pdata := 0
  ovr := false
  errcode := .none
  outbits := 0
  ow := 0
  amps := Bank.replicate _ Cplx.zero
  hb := Bank.replicate _ (Bank.replicate _ Cplx.zero)
  hptr := 0
  pos := 0
  long := false
  sum := 0
  acc := Bank.replicate _ 0
  dig := Bank.replicate _ 0
  data := 0
  agenda := []
  replies := []

end Sys2Proof.Machine
end

