-- ==== Sys2Proof/Machine/Ops.lean ====
section
/-! DEFINITION. The named operations over the machine's stores and registers: banks, complex vectors (00_scope.md R13), the 64-bit
rotate (R11), the history ring (10_state.md R27), raising an error (60_exceptions.md R153) and ending an engine step
(40_host_commands.md R84, R85). -/

namespace Sys2Proof.Machine

/-! ### Banks: index arithmetic wraps at the size (10_state.md R26) -/

/-- Cell `i mod n` of a bank. -/
def Bank.cell {n : Nat} {α : Type} [NeZero n] (b : Bank n α) (i : Nat) : α :=
  b.cells[i % n]'(b.size.symm ▸ Nat.mod_lt i (NeZero.pos n))

/-- The bank with cell `i mod n` replaced. -/
def Bank.put {n : Nat} {α : Type} (b : Bank n α) (i : Nat) (a : α) : Bank n α :=
  ⟨b.cells.set (i % n) a, (List.length_set ..).trans b.size⟩

/-- An operation applied at every index (00_scope.md R13). -/
def Bank.map {n : Nat} {α β : Type} (f : α → β) (b : Bank n α) : Bank n β :=
  ⟨b.cells.map f, (List.length_map ..).trans b.size⟩

/-- An operation on two banks applied at every index (00_scope.md R13). -/
def Bank.zipWith {n : Nat} {α β γ : Type} (f : α → β → γ) (a : Bank n α) (b : Bank n β) : Bank n γ :=
  ⟨List.zipWith f a.cells b.cells, by simp [a.size, b.size]⟩

/-- The bank whose cell `i` is `f i`. -/
def Bank.tabulate (n : Nat) {α : Type} (f : Nat → α) : Bank n α :=
  ⟨(List.range n).map f, by simp⟩

/-- Circular rotation: cell `k` of the result is cell `k + s mod n` of the bank. -/
def Bank.rotate {n : Nat} {α : Type} (b : Bank n α) (s : Nat) : Bank n α :=
  ⟨b.cells.drop (s % n) ++ b.cells.take (s % n), by simp [b.size]; rcases Nat.eq_zero_or_pos n with h | h
                                                    · simp [h]
                                                    · have := Nat.mod_lt s h
                                                      omega⟩

/-! ### Complex numbers and vectors (00_scope.md R13) -/

/-- `c * z` for a real `c`. -/
def Cplx.scale (c : Real64) (z : Cplx) : Cplx := ⟨fmul c z.re, fmul c z.im⟩

/-- `z + w`. -/
def Cplx.add (z w : Cplx) : Cplx := ⟨fadd z.re w.re, fadd z.im w.im⟩

/-- `z / n` for a real `n`. -/
def Cplx.over (z : Cplx) (n : Real64) : Cplx := ⟨fdiv z.re n, fdiv z.im n⟩

/-- `|z|^2` (92_eei_decisions.md D21). -/
def Cplx.normSq (z : Cplx) : Real64 := fadd (fmul z.re z.re) (fmul z.im z.im)

/-- `c * V` at every index. -/
def Bank.scaleBy (c : Real64) (v : Amps) : Amps := v.map (Cplx.scale c)

/-- `V + W` at every index. -/
def Bank.plus (v w : Amps) : Amps := Bank.zipWith Cplx.add v w

/-! ### Words -/

/-- `rotl64(v, r)` for `0 <= r <= 63` (00_scope.md R11), with `rotl64(v, 0) = v`. -/
def rotl64 (v : Word) (r : Nat) : Word := if r = 0 then v else (v <<< r) ||| (v >>> (64 - r))

/-! ### The history ring (10_state.md R27) -/

/-- The logical snapshot `H[j] = HB[(HPTR + j) mod 4]`, oldest first. -/
def State.hist (s : State) (j : Nat) : Amps := s.hb.cell (s.hptr.toNat + j)

/-- `Append(T)`: the new snapshot goes into `HB[HPTR]`, which held the oldest, and `HPTR` advances (43_chaotic_state_evolver.md R119). -/
def State.appendHist (s : State) (t : Amps) : State :=
  { s with hb := s.hb.put s.hptr.toNat t, hptr := s.hptr + 1 }

/-! ### Errors: this machine's only exceptions (60_exceptions.md R161) -/

/-- `raise Err(code)` (60_exceptions.md R153): the phase becomes ERROR and `ERRCODE` takes the code. Nothing is saved, no mode changes
and no control is transferred (60_exceptions.md R161). It does not end the engine step. -/
def raiseErr (code : ErrCode) (s : State) : State := { s with phase := .error, errcode := code }

/-- `ResolveOverrun` (40_host_commands.md R85): an overrun becomes an error unless the step already ended in one. -/
def resolveOverrun (s : State) : State :=
  if s.ovr then
    let t := if s.phase = .error then s else raiseErr .overrun s
    { t with ovr := false }
  else s

/-- The end of every engine step (40_host_commands.md R84): the overrun is resolved and `BUSY` falls. -/
def endStep (s : State) : State := { resolveOverrun s with busy := false }

/-- The order of tests that 40_host_commands.md R84 puts before ABSORB, ABSORBW and FINALIZE: ignored in ERROR (R94), SEQUENCE
outside ABSORB (R93), the command's effect in ABSORB. -/
def inContext (s : State) (effect : State → Host.Outcome State Fault Refusal) : Host.Outcome State Fault Refusal :=
  match s.phase with
  | .error => .next (endStep s)
  | .idle => .next (endStep (raiseErr .sequence s))
  | .done => .next (endStep (raiseErr .sequence s))
  | .absorb => effect s

end Sys2Proof.Machine
end

