-- ==== Sys2Proof/Machine/ComplexStateNormalizer.lean ====
section
/-! DEFINITION. The sub-block complex_state_normalizer (44_complex_state_normalizer.md). -/

namespace Sys2Proof.Machine

/-- `NormReduce` (44_complex_state_normalizer.md R126, 93_implementation_defined.md I10): the sum of the squares of a list of reals, in
index order from +0.0. This order is the spec's (92_eei_decisions.md D20). -/
def normReduce (xs : List Real64) : Real64 := xs.foldl (fun acc x => fadd acc (fmul x x)) posZero

/-- `Norm(V)` (44_complex_state_normalizer.md R126): the real parts' squares, then the imaginary parts' squares, then one add and one
square root. -/
def vecNorm (v : Amps) : Real64 :=
  fsqrt (fadd (normReduce (v.cells.map Cplx.re)) (normReduce (v.cells.map Cplx.im)))

/-- The degeneracy test of 44_complex_state_normalizer.md R127: the norm is not finite or is at most 1e-300. -/
def degenerate (n : Real64) : Bool := !isFinite n || fle n degenEps

/-- The scaling of 44_complex_state_normalizer.md R128 and R130: divided by the norm when it is above 1e-15, unscaled otherwise and for
a NaN (R129). -/
def scaleByNorm (v : Amps) (n : Real64) : Amps := if flt normEps n then v.map (·.over n) else v

/-- `Stabilize(V)` with the newest snapshot `H[3]` (44_complex_state_normalizer.md R127, R128). The recomputed norm is not tested
again. -/
def stabilize (newest : Amps) (v : Amps) : Amps :=
  if degenerate (vecNorm v) then scaleByNorm newest (vecNorm newest) else scaleByNorm v (vecNorm v)

/-- `Renorm(V)` (44_complex_state_normalizer.md R130): no degeneracy test and no fallback. -/
def renorm (v : Amps) : Amps := scaleByNorm v (vecNorm v)

end Sys2Proof.Machine
end

