-- ==== Sys2Proof/Machine/LogisticMapDriver.lean ====
section
/-! DEFINITION. The sub-block logistic_map_driver (42_logistic_map_driver.md). The arithmetic of R108 is normative, so the model
computes it and does not use the table of R110. -/

namespace Sys2Proof.Machine

/-- One iteration of the logistic map, each operation rounded once, left to right (42_logistic_map_driver.md R108). -/
def logisticStep (x : Real64) : Real64 :=
  fmod (fdiv (fmul (fmul logiR x) (fsub logiSpan x)) logiDiv) logiSpan

/-- `n` iterations of the logistic map. -/
def logisticIterate : Nat → Real64 → Real64
  | 0, x => x
  | n + 1, x => logisticIterate n (logisticStep x)

/-- The integer part of the last iterate (42_logistic_map_driver.md R108). The last iterate is finite for every input
(93_implementation_defined.md I5); a NaN or an infinity would give a free value. -/
def hopInteger (x : Real64) : Nat :=
  match trunc x with
  | some n => n.toNat
  | none => Config.truncNonFinite x

/-- `Hop` as a function of `x0 = (b + i + 1) mod 256` (42_logistic_map_driver.md R108, R110). -/
def hopOf (x0 : Byte) : Byte := BitVec.ofNat 8 (hopInteger (logisticIterate logiIters (floatOfNat x0.toNat)))

/-- `Hop(b, i)` (42_logistic_map_driver.md R108): it reads the low 8 bits of the position only (R107). -/
def hop (b : Byte) (i : Word) : Byte := hopOf (b + i.setWidth 8 + 1)

/-- The shift amount `h = hop mod 128` (42_logistic_map_driver.md R111). -/
def shiftAmount (b : Byte) (i : Word) : Nat := (hop b i).toNat % shMod

end Sys2Proof.Machine
end

