-- ==== Sys2Proof/Machine/ChaoticStateEvolver.lean ====
section
/-! DEFINITION. The sub-block chaotic_state_evolver (43_chaotic_state_evolver.md). -/

namespace Sys2Proof.Machine

/-- The initial state vector: 1.0 at index 256 and 0 elsewhere, every zero +0.0 (43_chaotic_state_evolver.md R114). -/
def initialAmps : Amps := (Bank.replicate Config.ns Cplx.zero).put center ⟨one, posZero⟩

/-- `InitState()` (43_chaotic_state_evolver.md R114): the initial vector, four copies of it, and `HPTR <- 0`. -/
def initState (s : State) : State :=
  { s with amps := initialAmps, hb := Bank.replicate Config.hd initialAmps, hptr := 0 }

/-- `Lsh(S, s)[k] = S[(k + s) mod 512]` (43_chaotic_state_evolver.md R115). -/
def lsh (v : Amps) (s : Nat) : Amps := v.rotate s

/-- `Rsh(S, s)[k] = S[(k - s) mod 512]` (43_chaotic_state_evolver.md R115). -/
def rsh (v : Amps) (s : Nat) : Amps := v.rotate (Config.ns - s % Config.ns)

/-- The combined copies `N = ((c0 A + c1 B) + c2 C) + c3 D` (43_chaotic_state_evolver.md R115, R116). -/
def combine (v : Amps) (h : Nat) : Amps :=
  ((((lsh v 1).scaleBy coin0).plus ((rsh v 1).scaleBy coin1)).plus ((lsh v h).scaleBy coin2)).plus ((rsh v h).scaleBy coin3)

/-- The history blend `Bl = (0.6 N + 0.25 H[0]) + 0.15 H[2]` (43_chaotic_state_evolver.md R117). -/
def blend (n oldest mid : Amps) : Amps :=
  ((n.scaleBy blendNew).plus (oldest.scaleBy blendOld)).plus (mid.scaleBy blendMid)

/-- The periodic renormalisation, when the position is a multiple of 8 (43_chaotic_state_evolver.md R120). -/
def periodic (i : Word) (t : Amps) : Amps := if i.toNat % renormPeriod = 0 then renorm t else t

/-- `T` of one evolution step: shifts, combination, blend and stabilisation (43_chaotic_state_evolver.md R121). -/
def stabilized (b : Byte) (i : Word) (v oldest mid newest : Amps) : Amps :=
  stabilize newest (blend (combine v (shiftAmount b i)) oldest mid)

/-- `Step(b, i)` (43_chaotic_state_evolver.md R121): the snapshot appended is `T`, from before the periodic renormalisation (R119). -/
def evolveStep (b : Byte) (i : Word) (s : State) : State :=
  let t := stabilized b i s.amps (s.hist 0) (s.hist 2) (s.hist 3)
  { s.appendHist t with amps := periodic i t }

end Sys2Proof.Machine
end

