-- ==== Sys2Proof/Machine/Operands.lean ====
section
/-! DEFINITION. The operands of the commands (30_encoding.md R70). The fields of the command value are read in Decode.lean. The byte
lanes of a 64-bit register (20_memory.md R53) are read here. -/

namespace Sys2Proof.Machine

/-- Lane `k` of a 64-bit register: bits `[8k+7:8k]` (20_memory.md R53). -/
def lane (w : Word) (k : Nat) : Byte := w.extractLsb' (8 * k) 8

/-- The operand bytes of ABSORBW: `d_k = PDATA[8k+7:8k]` for `k = 0 .. cnt-1`, byte 0 first (30_encoding.md R70). -/
def dataBytes (cnt : Nat) (pdata : Word) : List Byte := (List.range cnt).map (lane pdata)

/-- `LegalOutbits` (40_host_commands.md R88): a multiple of 64 from 64 to 512. -/
def legalOutbits (ob : BitVec 16) : Bool :=
  decide (ob.toNat % 64 = 0) && decide (64 ≤ ob.toNat) && decide (ob.toNat ≤ 512)

end Sys2Proof.Machine
end

