-- ==== Sys2Proof/Machine/Flags.lean ====
section
/-! DEFINITION. The status flags (10_state.md R37) and the words that show them: `STATUS`, `ERRCODE` and `CONFIG` (20_memory.md R46). -/

namespace Sys2Proof.Machine

/-- The number of a phase (10_state.md R21). -/
def Phase.code : Phase → BitVec 2
  | .idle => 0
  | .absorb => 1
  | .done => 2
  | .error => 3

/-- The code of an error cause (60_exceptions.md R154). -/
def ErrCode.code : ErrCode → BitVec 8
  | .none => 0x00
  | .cfgInvalid => 0x01
  | .sequence => 0x02
  | .badCmd => 0x03
  | .overrun => 0x04

/-- `STATUS` (10_state.md R37): BUSY in bit 0, PHASE in bits 2:1, LONG in bit 3, the rest 0. -/
def statusWord (s : State) : Word :=
  (0#60 ++ BitVec.ofBool s.long ++ s.phase.code ++ BitVec.ofBool s.busy : BitVec 64)

/-- `ERRCODE` as read: the code in bits 7:0, the rest 0 (20_memory.md R46). -/
def errcodeWord (s : State) : Word := s.errcode.code.setWidth 64

/-- `CONFIG` (20_memory.md R46): OUTBITS in bits 15:0, OW in bits 19:16, the rest 0. -/
def configWord (s : State) : Word := (0#44 ++ s.ow ++ s.outbits : BitVec 64)

/-- `POS <- POS +64 1` and the flag `LONG`, set when the incremented `POS` equals 64 (10_state.md R29, R30). -/
def advancePos (s : State) : State :=
  { s with pos := s.pos + 1, long := s.long || decide (s.pos + 1 = 64) }

end Sys2Proof.Machine
end

