-- ==== Sys2Proof/Machine/Absorption.lean ====
section
/-! DEFINITION. ABSORB and ABSORBW (40_host_commands.md R89 to R91). -/

namespace Sys2Proof.Machine

/-- `AbsorbByte(b)` (40_host_commands.md R91): one evolution step at position `POS`, then `SUM`, `POS` and `LONG`. -/
def absorbByte (b : Byte) (s : State) : State :=
  let t := evolveStep b s.pos s
  advancePos { t with sum := t.sum + b.setWidth 64 }

/-- The bytes in order, first byte first. -/
def absorbBytes (bs : List Byte) (s : State) : State := bs.foldl (fun t b => absorbByte b t) s

/-- ABSORB (40_host_commands.md R89). -/
def execAbsorb (b : Byte) (s : State) : Host.Outcome State Fault Refusal :=
  inContext s fun t => .next (endStep (absorbByte b t))

/-- ABSORBW (40_host_commands.md R90): the bytes come from `PDATA`, not from `DATA`. -/
def execAbsorbw (cnt : Nat) (s : State) : Host.Outcome State Fault Refusal :=
  inContext s fun t => .next (endStep (absorbBytes (dataBytes cnt t.pdata) t))

end Sys2Proof.Machine
end

