-- ==== Sys2Proof/Machine/Control.lean ====
section
/-! DEFINITION. The control commands NOP and INIT (40_host_commands.md R86, R87), and the engine step of an ILLEGAL value
(60_exceptions.md R156). Every meaning is one whole engine step of 40_host_commands.md R84 after decoding. -/

namespace Sys2Proof.Machine

/-- NOP (40_host_commands.md R86): only the end of the step. -/
def execNop (s : State) : Host.Outcome State Fault Refusal := .next (endStep s)

/-- What a legal INIT writes (40_host_commands.md R87). `DIG` and `DATA` keep their values. -/
def openContext (ob : BitVec 16) (s : State) : State :=
  { initState s with
    errcode := .none, outbits := ob, ow := BitVec.ofNat 4 (ob.toNat / 64), pos := 0, long := false, sum := 0,
    acc := Bank.replicate _ 0, phase := .absorb }

/-- What an illegal INIT writes (40_host_commands.md R87, 60_exceptions.md R151). -/
def rejectConfig (s : State) : State := raiseErr .cfgInvalid { s with outbits := 0, ow := 0 }

/-- INIT (40_host_commands.md R87): in every phase, ERROR included. It is the machine's only way out of ERROR by command
(60_exceptions.md R162). -/
def execInit (ob : BitVec 16) (s : State) : Host.Outcome State Fault Refusal :=
  .next (endStep (if legalOutbits ob then openContext ob s else rejectConfig s))

/-- The engine step of an ILLEGAL value (60_exceptions.md R156): `BAD_CMD`, or nothing in phase ERROR (40_host_commands.md R94). -/
def execIllegal (s : State) : Host.Outcome State Fault Refusal :=
  .next (endStep (if s.phase = .error then s else raiseErr .badCmd s))

end Sys2Proof.Machine
end

