-- ==== Sys2Proof/Machine/AmplitudeCompressor.lean ====
section
/-! DEFINITION. The sub-block amplitude_compressor (45_amplitude_compressor.md). -/

namespace Sys2Proof.Machine

/-- `v = trunc(fmul(p, 4294967295.0))` with `p = |z|^2` (45_amplitude_compressor.md R135). None for a product that is NaN, infinite,
negative or at least 2^64, where R139 gives no value. -/
def quantize (z : Cplx) : Option Word :=
  match datumOf (fmul z.normSq qScale) with
  | .nan => none
  | .inf _ => none
  | .fin neg mag =>
    if neg = true ∧ 0 < mag then none
    else if mag / unit64 < 2 ^ 64 then some (BitVec.ofNat 64 (mag / unit64)) else none

/-- The update of slot `i mod 8` at position `i` with the quantised value `v` (45_amplitude_compressor.md R134, R136). -/
def mixSlot (acc : Bank Config.aw Word) (i : Nat) (v : Word) : Bank Config.aw Word :=
  let mixer := rotl64 v (i % cRotMod)
  let mixed := rotl64 (acc.cell i ^^^ (mixer * cMul)) cRot
  acc.put i (mixed + BitVec.ofNat 64 i * cAdd)

/-- Positions `i`, `i + 1`, … in increasing order (45_amplitude_compressor.md R137), none if a product has no value. -/
def compressFrom : Nat → List Cplx → Bank Config.aw Word → Option (Bank Config.aw Word)
  | _, [], acc => some acc
  | i, z :: zs, acc =>
    match quantize z with
    | none => none
    | some v => compressFrom (i + 1) zs (mixSlot acc i v)

/-- `Compress()` (45_amplitude_compressor.md R134): from a zero accumulator, over the 512 positions. -/
def compress (v : Amps) : Option (Bank Config.aw Word) := compressFrom 0 v.cells (Bank.replicate Config.aw 0)

end Sys2Proof.Machine
end

