-- ==== Sys2Proof/Machine/OutputSqueezer.lean ====
section
/-! DEFINITION. The sub-block output_squeezer (46_output_squeezer.md). -/

namespace Sys2Proof.Machine

/-- One inner update with accumulator word `a` (46_output_squeezer.md R142, R143). -/
def squeezeRound (w a : Word) : Word := rotl64 (w ^^^ (a * sMul)) sRot

/-- `SqueezeWord(ACC, k)` (46_output_squeezer.md R142): from `ACC[k]`, over the 8 words in order. -/
def squeezeWord (acc : Bank Config.aw Word) (k : Nat) : Word := acc.cells.foldl squeezeRound (acc.cell k)

/-- The output words FINALIZE writes: squeezed below `OW`, 0 from there on (46_output_squeezer.md R147). -/
def squeezeInto (ow : BitVec 4) (acc : Bank Config.aw Word) : Bank Config.aw Word :=
  Bank.tabulate Config.aw fun k => if k < ow.toNat then squeezeWord acc k else 0

end Sys2Proof.Machine
end

