-- ==== Sys2Proof/Machine/Preprocessor.lean ====
section
/-! DEFINITION. The preprocessor's padding as FINALIZE runs it (41_preprocessor.md R101, R102, R104). -/

namespace Sys2Proof.Machine

/-- One step of the linear congruential generator (41_preprocessor.md R102). -/
def lcg (seed : Word) : Word := seed * lcgMul + lcgInc

/-- The padding byte of a seed already advanced: `seed mod 256` (41_preprocessor.md R102). -/
def padByte (seed : Word) : Byte := seed.setWidth 8

/-- The seed at FINALIZE: 0xDEADBEEF when nothing was absorbed, the byte sum otherwise (41_preprocessor.md R101, R104). -/
def padSeed (s : State) : Word := if s.pos = 0 then padEmptySeed else s.sum

/-- One iteration of the padding loop with the seed already advanced: `Step(p, POS)`, then `POS` and `LONG`. `SUM` is not written
(41_preprocessor.md R104). -/
def padOnce (seed : Word) (s : State) : State := advancePos (evolveStep (padByte seed) s.pos s)

/-- The loop `while LONG == 0`, at most as many times as its first argument says (41_preprocessor.md R104). -/
def padLoop : Nat → Word → State → State
  | 0, _, s => s
  | n + 1, seed, s => if s.long then s else padLoop n (lcg seed) (padOnce (lcg seed) s)

/-- How often the loop runs from a position: until the incremented `POS` equals 64 (41_preprocessor.md R104). That is `64 - POS`
below 64, and the count modulo 2^64 in the states with `LONG = 0` and `POS >= 64`, which no run reaches. -/
def padCount (pos : Word) : Nat := (63 - pos).toNat + 1

/-- `PadTail()` (41_preprocessor.md R104). -/
def padTail (s : State) : State := padLoop (padCount s.pos) (padSeed s) s

end Sys2Proof.Machine
end

