-- ==== Sys2Proof/Machine/Finalization.lean ====
section
/-! DEFINITION. FINALIZE (40_host_commands.md R92). -/

namespace Sys2Proof.Machine

/-- The context after the padding that FINALIZE runs when `LONG = 0` (40_host_commands.md R92). -/
def padded (s : State) : State := if s.long then s else padTail s

/-- What FINALIZE writes after the padding, with the compressed accumulator (40_host_commands.md R92). -/
def publish (acc : Bank Config.aw Word) (s : State) : State :=
  { s with acc := acc, dig := squeezeInto s.ow acc, phase := .done }

/-- FINALIZE (40_host_commands.md R92). The compressor's product out of range is the model fault `quantRange`
(45_amplitude_compressor.md R139, 93_implementation_defined.md I4). -/
def execFinalize (s : State) : Host.Outcome State Fault Refusal :=
  inContext s fun t =>
    match compress (padded t).amps with
    | none => .fault .quantRange
    | some acc => .next (endStep (publish acc (padded t)))

end Sys2Proof.Machine
end

