-- ==== Sys2Proof/Machine/Dispatch.lean ====
section
/-! DEFINITION. The dispatch of the engine step on a decoded command (40_host_commands.md R84). -/

namespace Sys2Proof.Machine

def exec (i : Instr) (s : State) : Host.Outcome State Fault Refusal :=
  match i with
  | .nop => Sys2Proof.Machine.execNop s
  | .init outbits => Sys2Proof.Machine.execInit outbits s
  | .absorb b => Sys2Proof.Machine.execAbsorb b s
  | .absorbw cnt => Sys2Proof.Machine.execAbsorbw cnt s
  | .finalize => Sys2Proof.Machine.execFinalize s

end Sys2Proof.Machine
end

