-- ==== Sys2Proof/Machine/Window.lean ====
section
/-! DEFINITION. The 128-byte register window (20_memory.md): the register map, the host's reads and writes, command acceptance and
overrun (40_host_commands.md R82, R83), and the platform's address decode (20_memory.md R45, R50). -/

namespace Sys2Proof.Machine

/-- The registers of the map of 20_memory.md R46. -/
inductive Reg where
  | cmd
  | data
  | status
  | errcode
  | config
  | len
  /-- Offsets 0x30 and 0x38. -/
  | reserved
  /-- `DIGESTk` at 0x40 + 8k. -/
  | digest (k : BitVec 3)
deriving DecidableEq, Repr

/-- The register whose 8 bytes hold the window's byte offset (20_memory.md R46). -/
def regAt (off : BitVec 7) : Reg :=
  if off.extractLsb' 3 4 = 0 then .cmd
  else if off.extractLsb' 3 4 = 1 then .data
  else if off.extractLsb' 3 4 = 2 then .status
  else if off.extractLsb' 3 4 = 3 then .errcode
  else if off.extractLsb' 3 4 = 4 then .config
  else if off.extractLsb' 3 4 = 5 then .len
  else if off.extractLsb' 6 1 = 0 then .reserved
  else .digest (off.extractLsb' 3 3)

/-- `DIGESTk` as read: `DIG[k]` in DONE and below `OW`, 0 otherwise (20_memory.md R64). -/
def digestWord (k : Nat) (s : State) : Word :=
  if s.phase = .done ∧ k < s.ow.toNat then s.dig.cell k else 0

/-- The value a register shows (20_memory.md R46, R50, R52). -/
def regValue : Reg → State → Word
  | .cmd, _ => 0
  | .data, s => s.data
  | .status, s => statusWord s
  | .errcode, s => errcodeWord s
  | .config, s => configWord s
  | .len, s => s.pos
  | .reserved, _ => 0
  | .digest k, s => digestWord k.toNat s

/-- Byte `j` of a register as the window lays it out, little-endian (20_memory.md R53). No access sees part of a register, so only
statements use it. -/
def windowByte (off : BitVec 7) (s : State) : Byte := lane (regValue (regAt off) s) (off.toNat % 8)

/-- An admitted access: 8 bytes wide at an offset that is a multiple of 8 (20_memory.md R47, R48). The third condition, an offset of at
most 0x78, follows for a 7-bit offset. -/
def admitted (off : BitVec 7) (width : Nat) : Bool := decide (width = 8) && decide (off.toNat % 8 = 0)

/-- `MemRead(off, n)` (20_memory.md R47): the register's value and no state change, or the bus error of R49. -/
def memRead (off : BitVec 7) (width : Nat) (s : State) : Except Fault Word :=
  if admitted off width then .ok (regValue (regAt off) s) else .error .busError

/-- Command acceptance (40_host_commands.md R82): neither decoded nor checked against the phase. -/
def acceptCommand (v : Word) (s : State) : State := { s with pcmd := v, pdata := s.data, busy := true }

/-- A write to `CMD`: accepted while `BUSY = 0`, discarded with `OVR <- 1` while `BUSY = 1` (40_host_commands.md R82, R83). -/
def writeCmd (v : Word) (s : State) : State := if s.busy then { s with ovr := true } else acceptCommand v s

/-- What an admitted write does (20_memory.md R48, R50, R51). -/
def writeReg : Reg → Word → State → State
  | .cmd, v, s => writeCmd v s
  | .data, v, s => { s with data := v }
  | .status, _, s => s
  | .errcode, _, s => s
  | .config, _, s => s
  | .len, _, s => s
  | .reserved, _, s => s
  | .digest _, _, s => s

/-- `MemWrite(off, n, v)` (20_memory.md R48), or the bus error of R49. -/
def memWrite (off : BitVec 7) (width : Nat) (v : Word) (s : State) : Except Fault State :=
  if admitted off width then .ok (writeReg (regAt off) v s) else .error .busError

/-- The platform's address decode: the offset in the window of a host address, none outside the 128 bytes at `CHE_BASE`
(20_memory.md R45, R50). -/
def windowOffset (addr : Nat) : Option (BitVec 7) :=
  if Config.cheBase ≤ addr ∧ addr < Config.cheBase + 128 then some (BitVec.ofNat 7 (addr - Config.cheBase)) else none

/-- The bus's answer reaches the host. -/
def record (r : BusReply) (s : State) : State := { s with replies := r :: s.replies }

/-- A host read at an address. A bus error returns 0 (20_memory.md R49). -/
def hostRead (addr width : Nat) (s : State) : State :=
  match windowOffset addr with
  | none => record .outside s
  | some off =>
    match memRead off width s with
    | .ok v => record (.value v) s
    | .error _ => record (.busError 0) s

/-- A host write at an address. A bus error changes nothing of the engine (20_memory.md R49). -/
def hostWrite (addr width : Nat) (v : Word) (s : State) : State :=
  match windowOffset addr with
  | none => record .outside s
  | some off =>
    match memWrite off width v s with
    | .ok t => record .written t
    | .error _ => record (.busError 0) s

end Sys2Proof.Machine
end

