-- ==== Sys2Proof/Machine/Engine.lean ====
section
/-! DEFINITION. The agents of 10_state.md R20: the engine step (40_host_commands.md R81, R84), reset (70_reset_and_hazards.md R170),
and one event of the outside world. -/

namespace Sys2Proof.Machine

/-- `EngineStep()` (40_host_commands.md R84): the decoded command's meaning, or the step of an ILLEGAL value. -/
def engineStep (s : State) : Host.Outcome State Fault Refusal :=
  match decode s.pcmd with
  | .ok i => exec i s
  | .error _ => execIllegal s

/-- The engine agent's turn: a step exactly when `BUSY = 1` (40_host_commands.md R81). Idle, the engine keeps all its state
(60_exceptions.md R169). -/
def engineTurn (s : State) : Host.Outcome State Fault Refusal := if s.busy then engineStep s else .next s

/-- Reset (70_reset_and_hazards.md R170, R173): every piece of the machine's state, the pending command included. What the outside
world still does and has seen is not the machine's. -/
def resetMachine (s : State) : State := { State.reset with agenda := s.agenda, replies := s.replies }

/-- One round of the polling loop `wait` (30_encoding.md R77, 70_reset_and_hazards.md R174): the host reads `STATUS`. While bit 0 is 1
the engine gets a turn before the next round, as weak fairness asks (70_reset_and_hazards.md R179). -/
def pollStatus (s : State) : State :=
  if s.busy then record (.value (statusWord s)) { s with agenda := .engine :: .wait :: s.agenda }
  else record (.value (statusWord s)) s

/-- What one event does, in the state from whose agenda it has been taken. -/
def runEvent (e : Event) (s : State) : Host.Outcome State Fault Refusal :=
  match e with
  | .read addr width => .next (hostRead addr width s)
  | .write addr width v => .next (hostWrite addr width v s)
  | .wait => .next (pollStatus s)
  | .engine => engineTurn s
  | .reset => .next (resetMachine s)

/-- One step of the whole system: the next event on the agenda, and the engine's turn when nothing is left on it. So every accepted
command executes at last (70_reset_and_hazards.md R179). -/
def systemStep (s : State) : Host.Outcome State Fault Refusal :=
  match s.agenda with
  | [] => engineTurn s
  | e :: rest => runEvent e { s with agenda := rest }

/-- The state in which the value `w` of `nbits` bits is the pending command and the engine's turn is next. -/
def pendCommand (s : State) (nbits w : Nat) : State :=
  { s with pcmd := BitVec.ofNat 64 (w % 2 ^ nbits), busy := true, agenda := [] }

end Sys2Proof.Machine
end

