-- ==== Sys2Proof/Machine/Step.lean ====
section
/-! DEFINITION. One step of the machine, and how a command is placed where the next step runs it. -/

namespace Sys2Proof.Machine

/-- One step: Machine/Engine.lean says what it does. -/
def step (s : State) : Host.Outcome State Fault Refusal := systemStep s

/-- `s` with the command of `nbits` bits `w` pending, and nothing else on the agenda, so that the next step is its engine step. It
stands for the host's accepted `CMD` write (assumption 3). -/
def State.withFetchWord (s : State) (nbits w : Nat) : State := pendCommand s nbits w

end Sys2Proof.Machine
end

