-- ==== Sys2Proof/Machine/HopTable.lean ====
section
/-! DEFINITION. The 256-entry table of 42_logistic_map_driver.md R110, as the spec prints it, indexed by `x0`. No meaning reads it: the
arithmetic of R108 is normative, and a statement says that the two agree. -/

namespace Sys2Proof.Machine

/-- The table of 42_logistic_map_driver.md R110, 16 values a row. -/
def hopTable : List Nat :=
  [0, 11, 36, 216, 171, 201, 89, 115, 58, 146, 55, 212, 28, 57, 95, 119] ++
  [127, 54, 147, 206, 114, 232, 86, 198, 150, 8, 158, 42, 222, 90, 189, 173] ++
  [107, 186, 50, 173, 215, 223, 42, 64, 252, 7, 241, 62, 30, 232, 170, 130] ++
  [62, 96, 44, 171, 178, 234, 213, 212, 47, 139, 223, 246, 186, 251, 194, 215] ++
  [171, 179, 108, 201, 209, 202, 18, 246, 155, 75, 181, 202, 247, 146, 223, 17] ++
  [80, 181, 80, 41, 62, 138, 3, 155, 66, 229, 114, 213, 253, 215, 83, 100] ++
  [251, 214, 92, 102, 237, 234, 90, 61, 149, 85, 189, 156, 249, 220, 77, 90] ++
  [13, 129, 211, 201, 110, 208, 249, 247, 210, 151, 79, 3, 186, 122, 73, 42] ++
  [31, 42, 73, 122, 186, 3, 79, 151, 210, 247, 249, 208, 110, 201, 211, 129] ++
  [13, 90, 77, 220, 249, 156, 189, 85, 149, 61, 90, 234, 237, 102, 92, 214] ++
  [251, 100, 83, 215, 253, 213, 114, 229, 66, 155, 3, 138, 62, 41, 80, 181] ++
  [80, 17, 223, 146, 247, 202, 181, 75, 155, 246, 18, 202, 209, 201, 108, 179] ++
  [171, 215, 194, 251, 186, 246, 223, 139, 47, 212, 213, 234, 178, 171, 44, 96] ++
  [62, 130, 170, 232, 30, 62, 241, 7, 252, 64, 42, 223, 215, 173, 50, 186] ++
  [107, 173, 189, 90, 222, 42, 158, 8, 150, 198, 86, 232, 114, 206, 147, 54] ++
  [127, 119, 95, 57, 28, 212, 55, 146, 58, 115, 89, 201, 171, 216, 36, 11]

end Sys2Proof.Machine
end

