-- ==== Sys2Proof/Machine/Digest.lean ====
section
/-! DEFINITION. The digest function of 00_scope.md R17, over a whole message: pad first (41_preprocessor.md R100), evolve over the
padded buffer with the history as a queue (43_chaotic_state_evolver.md R121), compress and squeeze. The machine does the same work
spread over its commands, with the history as a ring and without a message buffer (40_host_commands.md R97, R98). No command calls
these definitions: statements compare the commands with them. -/

namespace Sys2Proof.Machine

/-- The walk's state: the vector and its four snapshots, oldest first (10_state.md R26, R27). -/
structure Walk where
  amps : Amps
  h0 : Amps
  h1 : Amps
  h2 : Amps
  h3 : Amps
deriving DecidableEq, Repr

/-- `InitState()` (43_chaotic_state_evolver.md R114). -/
def initialWalk : Walk := ⟨initialAmps, initialAmps, initialAmps, initialAmps, initialAmps⟩

/-- One evolution step at a position: the oldest snapshot is dropped and the new one appended (43_chaotic_state_evolver.md R119,
R121). -/
def walkStep (b : Byte) (i : Nat) (w : Walk) : Walk :=
  let t := stabilized b (BitVec.ofNat 64 i) w.amps w.h0 w.h2 w.h3
  ⟨periodic (BitVec.ofNat 64 i) t, w.h1, w.h2, w.h3, t⟩

/-- The evolution over a buffer whose first byte is at position `i` (43_chaotic_state_evolver.md R121). -/
def walkFrom : Nat → List Byte → Walk → Walk
  | _, [], w => w
  | i, b :: bs, w => walkFrom (i + 1) bs (walkStep b i w)

/-- `PadSeed(m)` (41_preprocessor.md R101). -/
def padSeedOf (m : List Byte) : Word :=
  if m = [] then padEmptySeed else m.foldl (fun acc b => acc + b.setWidth 64) 0

/-- `n` padding bytes from a seed, advanced before each byte is taken (41_preprocessor.md R102). -/
def padBytes : Nat → Word → List Byte
  | 0, _ => []
  | n + 1, seed => padByte (lcg seed) :: padBytes n (lcg seed)

/-- `Pad(m)` (41_preprocessor.md R100). -/
def pad (m : List Byte) : List Byte := m ++ padBytes (minLen - m.length) (padSeedOf m)

/-- `Evolve(buf)` (43_chaotic_state_evolver.md R121). -/
def evolve (buf : List Byte) : Amps := (walkFrom 0 buf initialWalk).amps

/-- `Squeeze(ACC, OW)` (46_output_squeezer.md R142). Above 8 words, where R145 says no word is read, indices wrap (assumption 26). -/
def squeeze (acc : Bank Config.aw Word) (ow : Nat) : List Word := (List.range ow).map (squeezeWord acc)

/-- `Digest(m, output_bits)` (00_scope.md R17), none if the compressor has no value (45_amplitude_compressor.md R139). R17 defines it for
a legal length only; at any other length its `output_bits / 64` words, rounded down, are the model's totalisation (DESIGN CHOICE,
assumption 26). -/
def digest (m : List Byte) (outputBits : Nat) : Option (List Word) :=
  (compress (evolve (pad m))).map fun acc => squeeze acc (outputBits / 64)

/-- The hexadecimal rendering of a list of words, 16 digits each, in index order (46_output_squeezer.md R146). -/
def hexText (ws : List Word) : String := String.join (ws.map hex16)

end Sys2Proof.Machine
end

