-- ==== Sys2Proof/Machine/HostDriver.lean ====
section
/-! DEFINITION. The host's side of the command protocol: the pseudo-instructions of 30_encoding.md R77 as lists of events, and the
reference host driver of 70_reset_and_hazards.md R185, R186. It is no part of the engine; statements use it to compare the engine with
the digest function. -/

namespace Sys2Proof.Machine

/-! ### Bus statements and pseudo-instructions (30_encoding.md R76, R77) -/

/-- `wr OFF, v`. -/
def wrReg (off : Nat) (v : Word) : Event := .write (Config.cheBase + off) 8 v

/-- `rd OFF`. -/
def rdReg (off : Nat) : Event := .read (Config.cheBase + off) 8

/-- A command mnemonic standing alone: `wr CMD, <its encoding>`. -/
def wrCommand (i : Instr) : Event := wrReg 0x00 (encode i)

/-- `load8`: up to 8 bytes as one value, byte 0 in the least significant lane. 30_encoding.md R77 gives no meaning to more than 8 bytes,
whose later ones are dropped here (DESIGN CHOICE, assumption 25). -/
def load8 : List Byte → Word
  | [] => 0
  | b :: bs => (load8 bs <<< 8) ||| b.setWidth 64

/-- The runs of up to 8 consecutive bytes of a message, in order. -/
def runsOf8 : List Byte → List (List Byte)
  | [] => []
  | b0 :: b1 :: b2 :: b3 :: b4 :: b5 :: b6 :: b7 :: rest => [b0, b1, b2, b3, b4, b5, b6, b7] :: runsOf8 rest
  | short => [short]

/-- `absorbs "text"`. -/
def absorbsEvents (m : List Byte) : List Event := m.flatMap fun b => [wrCommand (.absorb b), .wait]

/-- `absorbws "text"`. -/
def absorbwsEvents (m : List Byte) : List Event :=
  (runsOf8 m).flatMap fun r => [wrReg 0x08 (load8 r), wrCommand (.absorbw r.length), .wait]

/-- `digest N`. 30_encoding.md R77 names the registers `DIGEST0` to `DIGEST(N/64 - 1)`, which are defined for a legal `N`
(00_scope.md R8) only. For any other `N` the quotient is rounded down here, and above 512 the reads go on at offsets 0x80 and above,
outside the window (DESIGN CHOICE, assumption 25). -/
def digestEvents (n : Nat) : List Event := (List.range (n / 64)).map fun k => rdReg (0x40 + 8 * k)

/-- `hash "text", N`. An `N` above 65535 is no operand of `init` (30_encoding.md R76); its low 16 bits are the operand here (DESIGN
CHOICE, assumption 25). -/
def hashEvents (m : List Byte) (n : Nat) : List Event :=
  [wrCommand (.init (BitVec.ofNat 16 n)), .wait] ++ absorbwsEvents m ++ [wrCommand .finalize, .wait, rdReg 0x10] ++ digestEvents n

/-! ### The reference host driver (70_reset_and_hazards.md R185, R186) -/

/-- The data of the source's call: text or bytes (41_preprocessor.md R106). -/
inductive HostData where
  | text (s : String)
  | bytes (m : List Byte)
deriving DecidableEq, Repr

/-- What the driver reports (70_reset_and_hazards.md R186). -/
inductive DriverResult where
  | digest (hex : String)
  | configurationError
  | encodingFailure
  | internalError (code : ErrCode)
deriving DecidableEq, Repr

/-- The next computation in the state an outcome leaves, if it leaves one. -/
def thenDo {α : Type} (o : Host.Outcome State Fault Refusal) (f : State → Host.Outcome α Fault Refusal) :
    Host.Outcome α Fault Refusal :=
  match o with
  | .next s => f s
  | .fault r => .fault r
  | .refused r => .refused r

/-- `n` steps of the whole system, one after the other. -/
def runSteps : Nat → State → Host.Outcome State Fault Refusal
  | 0, s => .next s
  | n + 1, s => thenDo (step s) (runSteps n)

/-- `wr CMD, v; wait`: the driver is the only master and waits before and after each command (70_reset_and_hazards.md R174). -/
def issue (i : Instr) (s : State) : Host.Outcome State Fault Refusal := engineTurn (writeCmd (encode i) s)

/-- Commands executed one after the other, each with its whole engine step. -/
def execAll : List Instr → State → Host.Outcome State Fault Refusal
  | [], s => .next s
  | i :: is, s => thenDo (exec i s) (execAll is)

/-- What a host may send in an open context (40_host_commands.md R97): a NOP, a byte by ABSORB, or `cnt` bytes of a data word by
ABSORBW. -/
inductive Send where
  | nop
  | byte (b : Byte)
  | word (cnt : Nat) (d : Word)
deriving DecidableEq, Repr

/-- The message bytes a sending carries, in order. -/
def Send.bytes : Send → List Byte
  | .nop => []
  | .byte b => [b]
  | .word cnt d => dataBytes cnt d

/-- A sending with a count that has an encoding. -/
def Send.wellFormed : Send → Bool
  | .nop => true
  | .byte _ => true
  | .word cnt _ => (Instr.absorbw cnt).wellFormed

/-- The host's accesses and the engine step of one sending, with the waits of 70_reset_and_hazards.md R174. -/
def sendOne : Send → State → Host.Outcome State Fault Refusal
  | .nop, s => issue .nop s
  | .byte b, s => issue (.absorb b) s
  | .word cnt d, s => issue (.absorbw cnt) (writeReg .data d s)

/-- Sendings one after the other. -/
def sendAll : List Send → State → Host.Outcome State Fault Refusal
  | [], s => .next s
  | x :: xs, s => thenDo (sendOne x s) (sendAll xs)

/-- A whole context (40_host_commands.md R80): INIT, the sendings, FINALIZE. -/
def runContext (ob : BitVec 16) (xs : List Send) (s : State) : Host.Outcome State Fault Refusal :=
  thenDo (issue (.init ob) s) fun s1 => thenDo (sendAll xs s1) (issue .finalize)

/-- `wr DATA` and `absorbw` for each run of up to 8 bytes. -/
def sendRuns : List (List Byte) → State → Host.Outcome State Fault Refusal
  | [], s => .next s
  | r :: rs, s => thenDo (issue (.absorbw r.length) (writeReg .data (load8 r) s)) (sendRuns rs)

/-- What the driver reports at the end: the digest in phase DONE, its own failure otherwise (70_reset_and_hazards.md R185, R186). -/
def report (outputBits : Nat) (s : State) : DriverResult :=
  if s.phase = .done then .digest (hexText ((List.range (outputBits / 64)).map fun k => digestWord k s))
  else if s.errcode = .cfgInvalid then .configurationError
  else .internalError s.errcode

/-- The commands of the driver for a byte message (70_reset_and_hazards.md R185). -/
def driveBytes (m : List Byte) (outputBits : Nat) (s : State) : Host.Outcome State Fault Refusal :=
  thenDo (engineTurn s) fun s0 =>
  thenDo (issue (.init (BitVec.ofNat 16 outputBits)) s0) fun s1 =>
  thenDo (sendRuns (runsOf8 m) s1) (issue .finalize)

/-- The bytes of the driver's data; text is encoded as UTF-8 or rejected (60_exceptions.md R152). The encoder is the parameter
`Utf8Encode` of 93_implementation_defined.md I7, a partial function from text to bytes (assumption 15). -/
def messageOf (utf8Encode : String → Option (List Byte)) : HostData → Option (List Byte)
  | .text s => utf8Encode s
  | .bytes m => some m

/-- The driver's own check of `output_bits`, an integer (70_reset_and_hazards.md R185). -/
def driverAccepts (outputBits : Int) : Bool :=
  decide (64 ≤ outputBits) && decide (outputBits ≤ 512) && decide (outputBits % 64 = 0)

/-- `hash(data, output_bits)` on the hardware (70_reset_and_hazards.md R185): what the driver reports, and the state it leaves. A
rejected call issues no command. -/
def driverHash (utf8Encode : String → Option (List Byte)) (d : HostData) (outputBits : Int) (s : State) :
    Host.Outcome (DriverResult × State) Fault Refusal :=
  match messageOf utf8Encode d with
  | none => .next (.encodingFailure, s)
  | some m =>
    if driverAccepts outputBits then
      thenDo (driveBytes m outputBits.toNat s) fun t => .next (report outputBits.toNat t, t)
    else .next (.configurationError, s)

/-- The driver's default output length, 256 bits (70_reset_and_hazards.md R185, 92_eei_decisions.md D13). -/
def driverHashDefault (utf8Encode : String → Option (List Byte)) (d : HostData) (s : State) :
    Host.Outcome (DriverResult × State) Fault Refusal :=
  driverHash utf8Encode d 256 s

end Sys2Proof.Machine
end

