-- ==== Sys2Proof/Safety.lean ====
section
/-! DEFINITION. What a good state is: the bookkeeping of the control state, the amplitude bound behind 10_state.md R40, when the
engine's turn is next, and the relations between states that differ only in what no register shows. -/

namespace Sys2Proof.Machine

/-- The control state's bookkeeping:
`ERRCODE` records an error exactly in phase ERROR (60_exceptions.md R154);
`OUTBITS` is 0 or a legal length, and `OW` is `OUTBITS / 64` (10_state.md R25);
a context, open or finished, has a legal length (46_output_squeezer.md R145);
an overrun is latched only while a command is pending (10_state.md R23);
`LONG = 0` means fewer than 64 positions and a byte sum of at most 255 for each (10_state.md R30, R31);
a finished context has absorbed 64 positions (40_host_commands.md R92) and its words from `OW` on are 0 (20_memory.md R64);
an open context's accumulator is 0 (45_amplitude_compressor.md R134). -/
structure State.Coherent (s : State) : Prop where
  errcode_iff : s.errcode ≠ .none ↔ s.phase = .error
  outbits_legal : s.outbits = 0 ∨ legalOutbits s.outbits = true
  ow_eq : s.ow.toNat = s.outbits.toNat / 64
  context_legal : s.phase = .absorb ∨ s.phase = .done → legalOutbits s.outbits = true
  ovr_pending : s.ovr = true → s.busy = true
  short_pos : s.long = false → s.pos.toNat < 64
  short_sum : s.long = false → s.sum.toNat ≤ 255 * s.pos.toNat
  done_long : s.phase = .done → s.long = true
  done_words : s.phase = .done → ∀ k, s.ow.toNat ≤ k → k < 8 → s.dig.cell k = 0
  absorb_acc : s.phase = .absorb → s.acc = Bank.replicate _ 0

/-- An amplitude that is real, non-negative and at most 2.0: imaginary part +0.0, and a real part whose pattern is at most that of 2.0
(patterns of non-negative numbers are in the numbers' order). It is finite. -/
def Cplx.tame (z : Cplx) : Prop := z.im = 0#64 ∧ z.re.toNat ≤ 0x4000000000000000

/-- Every amplitude of a vector is tame. -/
def Bank.tame (v : Amps) : Prop := ∀ z ∈ v.cells, z.tame

/-- 10_state.md R40's facts about `S` and every snapshot, with the bound 2.0 that makes them inductive. -/
def State.Tame (s : State) : Prop := s.amps.tame ∧ ∀ v ∈ s.hb.cells, Bank.tame v

/-- The compressor has a value for every product of the vector (45_amplitude_compressor.md R139). -/
def Bank.quantizable (v : Amps) : Prop := ∀ z ∈ v.cells, (quantize z).isSome = true

/-- The next step is the engine's turn, as the event at the head of the agenda or because nothing is left on it (20_memory.md R58), and
`rest` is what is on the agenda after it. -/
def State.engineNext (s : State) (rest : List Event) : Prop :=
  s.agenda = .engine :: rest ∨ (s.agenda = [] ∧ rest = [])

/-- Two states that agree on everything but the contents of `S` and `HB`, in a phase that has no open context
(70_reset_and_hazards.md R172). -/
def SameButStores (s t : State) : Prop :=
  s.phase ≠ .absorb ∧ t = { s with amps := t.amps, hb := t.hb }

/-- Two states that agree on everything but which bank holds which snapshot: the logical history is the same (10_state.md R27,
R39). -/
def SameLogical (s t : State) : Prop :=
  t = { s with hb := t.hb, hptr := t.hptr } ∧ ∀ j, j < 4 → s.hist j = t.hist j

/-- Both outcomes are next states and the relation holds of them, or both stop alike. -/
def OutcomesRelated (r : State → State → Prop) (a b : Host.Outcome State Fault Refusal) : Prop :=
  match a, b with
  | .next s, .next t => r s t
  | .fault x, .fault y => x = y
  | .refused x, .refused y => x = y
  | _, _ => False

end Sys2Proof.Machine
end

