-- ==== Sys2Proof/Certificates/Slice0/Obligations.lean ====
section
/-! DEFINITION. The statements for the provers. Each docstring names the rules it comes from. -/

open Sys2Proof Sys2Proof.Machine

/-! ### Encoding (30_encoding.md) -/

/-- 30_encoding.md R71, R76: decoding the encoding of a well-formed command gives it back, with every operand at every value. -/
def Obligations.EncodeThenDecode : Prop :=
  ∀ i : Instr, i.wellFormed = true → decode (encode i) = .ok i

/-- 30_encoding.md R71, R76, R78: a value that decodes has one meaning, and that meaning's encoding is the value. -/
def Obligations.DecodeThenEncode : Prop :=
  ∀ (v : Word) (i : Instr), decode v = .ok i → i.wellFormed = true ∧ encode i = v

/-- 30_encoding.md R71, R72: decoding is total, a value selects a row when `v & mask == match`, and a value that selects none is
ILLEGAL. -/
def Obligations.DecodeSelectsTableRow : Prop :=
  ∀ v : Word,
    (v &&& 0xFFFFFFFFFFFFFFFF#64 = 0x0#64 ↔ decode v = .ok .nop) ∧
    (v &&& 0xFFFFFFFF0000FFFF#64 = 0x1#64 ↔ decode v = .ok (.init (v.extractLsb' 16 16))) ∧
    (v &&& 0xFFFFFFFFFFFF00FF#64 = 0x2#64 ↔ decode v = .ok (.absorb (v.extractLsb' 8 8))) ∧
    (v &&& 0xFFFFFFFFFFFFF8FF#64 = 0x3#64 ↔ decode v = .ok (.absorbw ((v.extractLsb' 8 3).toNat + 1))) ∧
    (v &&& 0xFFFFFFFFFFFFFFFF#64 = 0x4#64 ↔ decode v = .ok .finalize) ∧
    ((∃ e, decode v = .error e) ↔
      v &&& 0xFFFFFFFFFFFFFFFF#64 ≠ 0x0#64 ∧ v &&& 0xFFFFFFFF0000FFFF#64 ≠ 0x1#64 ∧ v &&& 0xFFFFFFFFFFFF00FF#64 ≠ 0x2#64 ∧
      v &&& 0xFFFFFFFFFFFFF8FF#64 ≠ 0x3#64 ∧ v &&& 0xFFFFFFFFFFFFFFFF#64 ≠ 0x4#64)

/-- 30_encoding.md R73: the two kinds of ILLEGAL value. -/
def Obligations.IllegalHasTwoKinds : Prop :=
  ∀ v : Word,
    (decode v = .error .unknownOpcode ↔ 5 ≤ v.toNat % 256) ∧
    (decode v = .error .reservedBit ↔ v.toNat % 256 < 5 ∧ ∀ i, decode v ≠ .ok i)

/-- 30_encoding.md R79: the worked encodings. -/
def Obligations.WorkedEncodings : Prop :=
  (decode 0x0000000000000000#64 = .ok .nop ∧ decode 0x0000000000400001#64 = .ok (.init 64) ∧
    decode 0x0000000001000001#64 = .ok (.init 256) ∧ decode 0x0000000002000001#64 = .ok (.init 512) ∧
    decode 0x0000000001010001#64 = .ok (.init 257) ∧ decode 0x0000000000000001#64 = .ok (.init 0) ∧
    decode 0x0000000000006102#64 = .ok (.absorb 0x61) ∧ decode 0x0000000000000703#64 = .ok (.absorbw 8) ∧
    decode 0x0000000000000603#64 = .ok (.absorbw 7) ∧ decode 0x0000000000000004#64 = .ok .finalize) ∧
  (encode .nop = 0x0000000000000000#64 ∧ encode (.init 64) = 0x0000000000400001#64 ∧
    encode (.init 256) = 0x0000000001000001#64 ∧ encode (.init 512) = 0x0000000002000001#64 ∧
    encode (.init 257) = 0x0000000001010001#64 ∧ encode (.init 0) = 0x0000000000000001#64 ∧
    encode (.absorb 0x61) = 0x0000000000006102#64 ∧ encode (.absorbw 8) = 0x0000000000000703#64 ∧
    encode (.absorbw 7) = 0x0000000000000603#64 ∧ encode .finalize = 0x0000000000000004#64) ∧
  (decode 0x0000000000000005#64 = .error .unknownOpcode ∧ decode 0x0000000000016102#64 = .error .reservedBit ∧
    decode 0x0000000101000001#64 = .error .reservedBit)

/-! ### The register window (20_memory.md) -/

/-- 20_memory.md R46, R47, R52: an admitted read returns the register's value by the map, and changes no state of the machine. -/
def Obligations.ReadShowsRegisterMap : Prop :=
  ∀ (s : State) (k : Nat) (rest : List Event), k < 16 →
    ∃ v : Word,
      step { s with agenda := .read (Config.cheBase + 8 * k) 8 :: rest } =
        .next { s with agenda := rest, replies := .value v :: s.replies } ∧
      v.toNat =
        if k = 0 then 0
        else if k = 1 then s.data.toNat
        else if k = 2 then
          (if s.busy then 1 else 0) +
            2 * (match s.phase with
              | .idle => 0
              | .absorb => 1
              | .done => 2
              | .error => 3) +
            8 * (if s.long then 1 else 0)
        else if k = 3 then
          (match s.errcode with
            | .none => 0
            | .cfgInvalid => 1
            | .sequence => 2
            | .badCmd => 3
            | .overrun => 4)
        else if k = 4 then s.outbits.toNat + 65536 * s.ow.toNat
        else if k = 5 then s.pos.toNat
        else if k < 8 then 0
        else if s.phase = .done ∧ k - 8 < s.ow.toNat then (s.dig.cell (k - 8)).toNat
        else 0

/-- 20_memory.md R64: `DIGESTk` shows `DIG[k]` in DONE below `OW`, and 0 in every other case. In DONE the words from `OW` on are 0 in
every coherent state. -/
def Obligations.DigestReadIsGated : Prop :=
  ∀ (s : State) (k : Nat) (rest : List Event), k < 8 →
    step { s with agenda := .read (Config.cheBase + (0x40 + 8 * k)) 8 :: rest } =
      .next { s with
        agenda := rest
        replies := .value (if s.phase = .done ∧ k < s.ow.toNat then s.dig.cell k else 0) :: s.replies } ∧
    (s.Coherent → s.phase = .done → s.ow.toNat ≤ k → s.dig.cell k = 0)

/-- 20_memory.md R53: the window is little-endian. A register's value is its eight bytes, the one at the lowest offset least
significant. -/
def Obligations.WindowIsLittleEndian : Prop :=
  ∀ (s : State) (k : Nat), k < 16 →
    (regValue (regAt (BitVec.ofNat 7 (8 * k))) s).toNat =
      ((List.range 8).map fun j => (windowByte (BitVec.ofNat 7 (8 * k + j)) s).toNat * 256 ^ j).sum

/-- 20_memory.md R49: an access of another width or alignment is a fault of that access, is answered by a bus error, and changes no
state; a read so answered returns 0. That the step records the answer and goes on is the model's choice (assumption 5). -/
def Obligations.BusErrorChangesNothing : Prop :=
  ∀ (s : State) (off width : Nat) (v : Word) (rest : List Event), off < 128 → width ≠ 8 ∨ off % 8 ≠ 0 →
    memRead (BitVec.ofNat 7 off) width s = .error .busError ∧
    memWrite (BitVec.ofNat 7 off) width v s = .error .busError ∧
    step { s with agenda := .read (Config.cheBase + off) width :: rest } =
      .next { s with agenda := rest, replies := .busError 0 :: s.replies } ∧
    step { s with agenda := .write (Config.cheBase + off) width v :: rest } =
      .next { s with agenda := rest, replies := .busError 0 :: s.replies }

/-- 20_memory.md R50: the reserved offsets read as 0 and ignore writes with a normal response, and an address outside the window never
reaches the engine. That this holds at every width, and below the window too, is the model's inference (assumption 14). -/
def Obligations.ReservedAndOutsideOffsets : Prop :=
  ∀ (s : State) (off addr width : Nat) (v : Word) (rest : List Event),
    (off = 0x30 ∨ off = 0x38 →
      step { s with agenda := .read (Config.cheBase + off) 8 :: rest } =
        .next { s with agenda := rest, replies := .value 0 :: s.replies } ∧
      step { s with agenda := .write (Config.cheBase + off) 8 v :: rest } =
        .next { s with agenda := rest, replies := .written :: s.replies }) ∧
    (addr < Config.cheBase ∨ Config.cheBase + 0x80 ≤ addr →
      step { s with agenda := .read addr width :: rest } =
        .next { s with agenda := rest, replies := .outside :: s.replies } ∧
      step { s with agenda := .write addr width v :: rest } =
        .next { s with agenda := rest, replies := .outside :: s.replies })

/-- 20_memory.md R48, R51, 40_host_commands.md R82: what an admitted write does, offset by offset. A `CMD` write is accepted in every
phase with every value while `BUSY = 0`, and only latches the overrun while `BUSY = 1`. -/
def Obligations.WriteEffectsByOffset : Prop :=
  ∀ (s : State) (k : Nat) (v : Word) (rest : List Event), k < 16 →
    step { s with agenda := .write (Config.cheBase + 8 * k) 8 v :: rest } =
      .next { (if k = 0 then
                (if s.busy then { s with ovr := true } else { s with pcmd := v, pdata := s.data, busy := true })
              else if k = 1 then { s with data := v }
              else s) with agenda := rest, replies := .written :: s.replies }

/-! ### The sequencer (40_host_commands.md, 60_exceptions.md) -/

/-- 40_host_commands.md R81, R84: while a command is pending, the engine's turn runs the meaning of the decoded command, which is
well-formed. -/
def Obligations.StepRunsDecodedCommand : Prop :=
  ∀ (s : State) (i : Instr), s.busy = true → decode s.pcmd = .ok i →
    i.wellFormed = true ∧ (s.agenda = [] → step s = exec i s) ∧
    ∀ rest, s.agenda = .engine :: rest → step s = exec i { s with agenda := rest }

/-- 40_host_commands.md R81, 60_exceptions.md R169: without a pending command the engine's turn changes nothing. -/
def Obligations.IdleEngineKeepsState : Prop :=
  ∀ s : State, s.busy = false →
    (s.agenda = [] → step s = .next s) ∧
    ∀ rest, s.agenda = .engine :: rest → step s = .next { s with agenda := rest }

/-- 40_host_commands.md R83: a `CMD` write while `BUSY = 1` is discarded: `PCMD` and `PDATA` keep their values and `OVR` is latched. The
pending command, an ILLEGAL value included, still executes as it would without the overrun. However many such writes came first, and
whether or not an overrun was latched before them, they become one OVERRUN error (60_exceptions.md R157), unless the command itself ends
in ERROR. -/
def Obligations.OverrunWriteIsDiscarded : Prop :=
  ∀ (s : State) (rest : List Event), s.busy = true →
    (∀ v : Word, step { s with agenda := .write Config.cheBase 8 v :: rest } =
      .next { s with ovr := true, agenda := rest, replies := .written :: s.replies }) ∧
    ∀ vs : List Word, vs ≠ [] ∨ s.ovr = true →
      runSteps (vs.length + 1) { s with agenda := vs.map (.write Config.cheBase 8 ·) ++ .engine :: rest } =
        thenDo
          (step { s with ovr := false, agenda := .engine :: rest, replies := List.replicate vs.length .written ++ s.replies })
          fun t => .next (if t.phase = .error then t else { t with phase := .error, errcode := .overrun })

/-- 40_host_commands.md R85: the overrun is resolved after the command's effect, a command that raised its own error keeps its code,
and a legal INIT with an overrun ends in ERROR with OVERRUN. -/
def Obligations.OverrunResolvedAfterEffect : Prop :=
  (∀ (i : Instr) (s t : State), s.ovr = true → exec i { s with ovr := false } = .next t →
    exec i s = .next (if t.phase = .error then t else { t with phase := .error, errcode := .overrun }) ∧ t.ovr = false) ∧
  (∀ (ob : BitVec 16) (s : State), s.ovr = true → legalOutbits ob = true →
    ∃ t, exec (.init ob) s = .next t ∧ t.phase = .error ∧ t.errcode = .overrun)

/-- 40_host_commands.md R86: NOP writes `BUSY` and resolves an overrun, and changes nothing else. -/
def Obligations.NopResult : Prop :=
  ∀ s : State, exec .nop s = .next { s with
    busy := false, ovr := false,
    phase := if s.ovr then .error else s.phase,
    errcode := if s.ovr = true ∧ s.phase ≠ .error then .overrun else s.errcode }

/-- 40_host_commands.md R87, 43_chaotic_state_evolver.md R114: INIT in every phase. A legal value opens a context; an illegal one
clears `OUTBITS` and `OW` and raises CFG_INVALID. `DIG` and `DATA` are not written. -/
def Obligations.InitResult : Prop :=
  ∀ (ob : BitVec 16) (s : State), s.ovr = false →
    ((ob.toNat % 64 = 0 ∧ 64 ≤ ob.toNat ∧ ob.toNat ≤ 512) →
      ∃ t, exec (.init ob) s = .next t ∧
        t = { s with
          busy := false, phase := .absorb, errcode := .none, outbits := ob, ow := t.ow, amps := t.amps, hb := t.hb, hptr := 0,
          pos := 0, long := false, sum := 0, acc := t.acc } ∧
        t.ow.toNat = ob.toNat / 64 ∧
        (∀ k, k < 512 → t.amps.cell k = if k = 256 then ⟨0x3FF0000000000000#64, 0#64⟩ else ⟨0#64, 0#64⟩) ∧
        (∀ j, j < 4 → t.hist j = t.amps) ∧
        ∀ j, j < 8 → t.acc.cell j = 0) ∧
    (¬ (ob.toNat % 64 = 0 ∧ 64 ≤ ob.toNat ∧ ob.toNat ≤ 512) →
      exec (.init ob) s = .next { s with busy := false, phase := .error, errcode := .cfgInvalid, outbits := 0, ow := 0 })

/-- 40_host_commands.md R88: the legal output lengths, by condition and by list. -/
def Obligations.LegalOutbitsExactly : Prop :=
  ∀ ob : BitVec 16,
    (legalOutbits ob = true ↔ ob.toNat % 64 = 0 ∧ 64 ≤ ob.toNat ∧ ob.toNat ≤ 512) ∧
    (legalOutbits ob = true ↔ ob.toNat ∈ [64, 128, 192, 256, 320, 384, 448, 512])

/-- 40_host_commands.md R89, R91: ABSORB in an open context takes one evolution step at position `POS` and then writes `SUM`, `POS` and
`LONG`. The evolution step writes only `S` and the history (EvolutionStepResult). -/
def Obligations.AbsorbResult : Prop :=
  ∀ (b : Byte) (s : State), s.phase = .absorb → s.ovr = false →
    exec (.absorb b) s = .next { evolveStep b s.pos s with
      sum := s.sum + b.setWidth 64
      pos := s.pos + 1
      long := if s.pos + 1 = 64 then true else s.long
      busy := false }

/-- 40_host_commands.md R90: ABSORBW is exactly `cnt` ABSORB commands with the bytes of `PDATA`, lane 0 first, and it completes. -/
def Obligations.AbsorbwIsAbsorbs : Prop :=
  ∀ (cnt : Nat) (s : State), 1 ≤ cnt → cnt ≤ 8 → s.phase = .absorb → s.ovr = false →
    ∃ t, exec (.absorbw cnt) s = .next t ∧
      execAll ((List.range cnt).map fun k => .absorb (s.pdata.extractLsb' (8 * k) 8)) s = .next t

/-- 40_host_commands.md R93: ABSORB, ABSORBW and FINALIZE outside an open context raise SEQUENCE in IDLE and DONE and change nothing
else, and are ignored in ERROR. -/
def Obligations.OutsideContextIsSequenceError : Prop :=
  ∀ (i : Instr) (s : State), (∃ b, i = .absorb b) ∨ (∃ cnt, i = .absorbw cnt) ∨ i = .finalize →
    (s.phase = .idle ∨ s.phase = .done →
      exec i s = .next { s with busy := false, ovr := false, phase := .error, errcode := .sequence }) ∧
    (s.phase = .error → exec i s = .next { s with busy := false, ovr := false })

/-- 40_host_commands.md R94: in ERROR every value but a well-formed INIT is ignored. A legal INIT clears the code and opens a context,
unless an overrun follows its acceptance (R85); an illegal INIT replaces the code with CFG_INVALID. -/
def Obligations.ErrorPhaseIgnoresAllButInit : Prop :=
  ∀ (s : State) (rest : List Event), s.phase = .error → s.busy = true → s.engineNext rest →
    ((∀ ob, decode s.pcmd ≠ .ok (.init ob)) → step s = .next { s with agenda := rest, busy := false, ovr := false }) ∧
    (∀ ob, decode s.pcmd = .ok (.init ob) →
      ∃ t, step s = .next t ∧ t.agenda = rest ∧ t.busy = false ∧ t.ovr = false ∧
        (legalOutbits ob = true → s.ovr = false → t.phase = .absorb ∧ t.errcode = .none) ∧
        (legalOutbits ob = true → s.ovr = true → t.phase = .error ∧ t.errcode = .overrun) ∧
        (legalOutbits ob = false → t.phase = .error ∧ t.errcode = .cfgInvalid))

/-- 60_exceptions.md R156, 30_encoding.md R73: an ILLEGAL value raises BAD_CMD in IDLE, ABSORB and DONE and nothing else, and is ignored
in ERROR. -/
def Obligations.IllegalRaisesBadCmd : Prop :=
  ∀ (s : State) (e : Illegal) (rest : List Event), s.busy = true → s.engineNext rest → decode s.pcmd = .error e →
    (s.phase ≠ .error →
      step s = .next { s with agenda := rest, busy := false, ovr := false, phase := .error, errcode := .badCmd }) ∧
    (s.phase = .error → step s = .next { s with agenda := rest, busy := false, ovr := false })

/-- 60_exceptions.md R153, R161: an error that a command raises is precise. Without an overrun, a command that ends in ERROR from
another phase has written nothing but `PHASE`, `ERRCODE` and `BUSY`, and for CFG_INVALID the zeros of `OUTBITS` and `OW`. -/
def Obligations.ErrorsArePrecise : Prop :=
  ∀ (i : Instr) (s t : State), s.ovr = false → s.phase ≠ .error → exec i s = .next t → t.phase = .error →
    (t.errcode = .cfgInvalid ∧ t = { s with busy := false, phase := .error, errcode := .cfgInvalid, outbits := 0, ow := 0 }) ∨
    (t.errcode = .sequence ∧ t = { s with busy := false, phase := .error, errcode := .sequence })

/-- 60_exceptions.md R162, R163: only the engine step of a legal INIT, or reset, leaves phase ERROR. -/
def Obligations.OnlyInitOrResetLeavesError : Prop :=
  ∀ s t : State, s.phase = .error → step s = .next t → t.phase ≠ .error →
    (∃ rest, s.agenda = .reset :: rest) ∨
    ((∃ rest, s.engineNext rest) ∧ s.busy = true ∧ ∃ ob, decode s.pcmd = .ok (.init ob) ∧ legalOutbits ob = true)

/-- 10_state.md R33: the output words change only by reset or by the engine step of a FINALIZE in an open context. -/
def Obligations.OnlyFinalizeWritesDigest : Prop :=
  ∀ s t : State, step s = .next t → t.dig ≠ s.dig →
    (∃ rest, s.agenda = .reset :: rest) ∨
    ((∃ rest, s.engineNext rest) ∧ s.busy = true ∧ s.phase = .absorb ∧ decode s.pcmd = .ok .finalize)

/-- 10_state.md R34: `DATA` changes only by reset or by the host's admitted write to offset 0x08. -/
def Obligations.OnlyHostWritesData : Prop :=
  ∀ s t : State, step s = .next t → t.data ≠ s.data →
    (∃ rest, s.agenda = .reset :: rest) ∨
    (∃ rest v, s.agenda = .write (Config.cheBase + 8) 8 v :: rest ∧ t.data = v)

/-- The frame common to all commands (10_state.md R22, R25, R33, R34): a command leaves `PCMD`, `PDATA`, `DATA` and the outside world
as they are, ends with `BUSY = 0` and `OVR = 0`, writes `OUTBITS` and `OW` only if it is INIT, `DIG` only if it is FINALIZE, and `SUM` not
if it is FINALIZE or NOP. -/
def Obligations.CommandFrame : Prop :=
  ∀ (i : Instr) (s t : State), exec i s = .next t →
    t.pcmd = s.pcmd ∧ t.pdata = s.pdata ∧ t.data = s.data ∧ t.agenda = s.agenda ∧ t.replies = s.replies ∧
    t.busy = false ∧ t.ovr = false ∧
    ((∀ ob, i ≠ .init ob) → t.outbits = s.outbits ∧ t.ow = s.ow) ∧
    (i ≠ .finalize → t.dig = s.dig) ∧
    (i = .finalize ∨ i = .nop → t.sum = s.sum)

/-- 30_encoding.md R77, 70_reset_and_hazards.md R175, R179: while a command is pending, the polling loop ends after the engine step of
that command, with `BUSY = 0`, and leaves nothing else changed. -/
def Obligations.WaitEndsAfterPendingStep : Prop :=
  ∀ (s t : State) (rest : List Event), s.busy = true → s.agenda = .wait :: rest →
    engineStep { s with agenda := .wait :: rest, replies := .value (statusWord s) :: s.replies } = .next t →
    thenDo (thenDo (step s) step) step =
      .next { t with agenda := rest, replies := .value (statusWord t) :: t.replies } ∧ t.busy = false

/-! ### The logistic map driver (42_logistic_map_driver.md) -/

/-- 42_logistic_map_driver.md R110: the arithmetic of R108 gives the printed table, which is symmetric, with shift 1 exactly at 113 and
143. -/
def Obligations.HopIsTheTable : Prop :=
  (∀ x0 : Byte, (hopOf x0).toNat = hopTable.getD x0.toNat 0) ∧
  (∀ (b : Byte) (i : Word), hop b i = hopOf (BitVec.ofNat 8 ((b.toNat + i.toNat + 1) % 256))) ∧
  (∀ x0 : Byte, x0 ≠ 0 → hopOf x0 = hopOf (-x0)) ∧
  (∀ x0 : Byte, (hopOf x0).toNat % 128 = 1 ↔ x0 = 113 ∨ x0 = 143)

/-- 42_logistic_map_driver.md R107: the hop depends on the position only through its low 8 bits. -/
def Obligations.HopReadsPositionModulo256 : Prop :=
  ∀ (b : Byte) (i j : Word), i.toNat % 256 = j.toNat % 256 → hop b i = hop b j ∧ shiftAmount b i = shiftAmount b j

/-! ### The chaotic state evolver (43_chaotic_state_evolver.md) -/

/-- 43_chaotic_state_evolver.md R115, R116: element `k` of the combined copies, from the four elements of the old state, with the
weights 0.5 and the sum from left to right. -/
def Obligations.CombineElementwise : Prop :=
  ∀ (v : Amps) (b : Byte) (i : Word) (k : Nat), k < 512 →
    let h := (hop b i).toNat % 128
    let half : Cplx → Cplx := fun z => ⟨fmul 0x3FE0000000000000#64 z.re, fmul 0x3FE0000000000000#64 z.im⟩
    let plus : Cplx → Cplx → Cplx := fun z w => ⟨fadd z.re w.re, fadd z.im w.im⟩
    let at512 : Int → Cplx := fun j => v.cell (j % 512).toNat
    (combine v (shiftAmount b i)).cell k =
      plus (plus (plus (half (at512 (k + 1))) (half (at512 (k - 1)))) (half (at512 (k + h)))) (half (at512 (k - h)))

/-- 43_chaotic_state_evolver.md R117: element `k` of the blend with the oldest and the second-newest snapshot. -/
def Obligations.BlendElementwise : Prop :=
  ∀ (n oldest mid : Amps) (k : Nat), k < 512 →
    (blend n oldest mid).cell k =
      ⟨fadd (fadd (fmul 0x3FE3333333333333#64 (n.cell k).re) (fmul 0x3FD0000000000000#64 (oldest.cell k).re))
          (fmul 0x3FC3333333333333#64 (mid.cell k).re),
       fadd (fadd (fmul 0x3FE3333333333333#64 (n.cell k).im) (fmul 0x3FD0000000000000#64 (oldest.cell k).im))
          (fmul 0x3FC3333333333333#64 (mid.cell k).im)⟩

/-- 43_chaotic_state_evolver.md R119, R120, R121: the step drops the oldest snapshot and appends `T`, the state from before the periodic
renormalisation, which runs when the position is a multiple of 8. Nothing else changes. -/
def Obligations.EvolutionStepResult : Prop :=
  ∀ (b : Byte) (i : Word) (s : State),
    let big := stabilize (s.hist 3) (blend (combine s.amps (shiftAmount b i)) (s.hist 0) (s.hist 2))
    let t := evolveStep b i s
    t = { s with amps := t.amps, hb := t.hb, hptr := t.hptr } ∧
    t.hist 0 = s.hist 1 ∧ t.hist 1 = s.hist 2 ∧ t.hist 2 = s.hist 3 ∧ t.hist 3 = big ∧
    (i.toNat % 8 = 0 → t.amps = renorm big) ∧ (i.toNat % 8 ≠ 0 → t.amps = big)

/-! ### The normalizer and the arithmetic (44_complex_state_normalizer.md, 00_scope.md) -/

/-- 44_complex_state_normalizer.md R126: the squares of the real parts summed in index order, then those of the imaginary parts, then
one add and one square root. -/
def Obligations.NormSumsInIndexOrder : Prop :=
  ∀ v : Amps,
    vecNorm v =
      fsqrt (fadd
        ((List.range 512).foldl (fun sr k => fadd sr (fmul (v.cell k).re (v.cell k).re)) 0#64)
        ((List.range 512).foldl (fun si k => fadd si (fmul (v.cell k).im (v.cell k).im)) 0#64))

/-- 44_complex_state_normalizer.md R130: the extra pass divides by the norm when that is above 1e-15 and returns the vector unscaled
otherwise, a NaN norm included. -/
def Obligations.RenormElementwise : Prop :=
  ∀ (v : Amps) (k : Nat), k < 512 →
    (renorm v).cell k =
      if flt 0x3CD203AF9EE75616#64 (vecNorm v) then ⟨fdiv (v.cell k).re (vecNorm v), fdiv (v.cell k).im (vecNorm v)⟩ else v.cell k

/-- 44_complex_state_normalizer.md R127, R128, R129: the branches of `Stabilize`. A norm that is finite and above 1e-300 keeps the
vector; any other takes the newest snapshot and its norm. The result is divided by the norm when that is above 1e-15 and is unscaled
otherwise. -/
def Obligations.StabilizeBranches : Prop :=
  ∀ (newest v : Amps) (k : Nat), k < 512 →
    let n := vecNorm v
    let n' := vecNorm newest
    let overReal : Cplx → Real64 → Cplx := fun z d => ⟨fdiv z.re d, fdiv z.im d⟩
    ((isFinite n = true ∧ flt 0x01A56E1FC2F8F359#64 n = true) →
      (stabilize newest v).cell k = if flt 0x3CD203AF9EE75616#64 n then overReal (v.cell k) n else v.cell k) ∧
    (¬ (isFinite n = true ∧ flt 0x01A56E1FC2F8F359#64 n = true) →
      (stabilize newest v).cell k = if flt 0x3CD203AF9EE75616#64 n' then overReal (newest.cell k) n' else newest.cell k)

/-- 00_scope.md R12, R15: rounding is to nearest, ties to even. A quotient of units from halfway above the greatest finite magnitude on
overflows to the infinity of its sign. Below, no finite binary64 magnitude is nearer to it than the one rounding gives, and on a tie the
one given is even. A sum, difference, product or quotient of finite numbers is its exact value rounded so, once. That an overflow is an
infinity, and an exact zero sum of opposite signs +0.0, is the standard's, which the spec names (assumption 19). -/
def Obligations.RoundingIsNearestEven : Prop :=
  (∀ (neg : Bool) (num den : Nat), 0 < den →
    (datumOf (roundSigned neg num den) = .inf neg ↔ (2 ^ 54 - 1) * 2 ^ 2044 * den ≤ num) ∧
    (num < (2 ^ 54 - 1) * 2 ^ 2044 * den → ∀ g, g < 2047 * 2 ^ 52 →
      ∃ mf mg : Nat,
        datumOf (roundSigned neg num den) = .fin neg mf ∧ datumOf (packFields neg g) = .fin neg mg ∧
        ((mf * den : Int) - num).natAbs ≤ ((mg * den : Int) - num).natAbs ∧
        (((mf * den : Int) - num).natAbs = ((mg * den : Int) - num).natAbs → g ≠ roundUnits num den →
          roundUnits num den % 2 = 0))) ∧
  (∀ (a b : Real64) (s t : Bool) (m n : Nat), datumOf a = .fin s m → datumOf b = .fin t n →
    (s = t → fadd a b = roundSigned s (m + n) 1) ∧
    (s ≠ t → n < m → fadd a b = roundSigned s (m - n) 1 ∧ fadd b a = roundSigned s (m - n) 1) ∧
    (s ≠ t → m = n → fadd a b = 0#64) ∧
    (s ≠ t → fsub a b = roundSigned s (m + n) 1) ∧
    (s = t → n < m → fsub a b = roundSigned s (m - n) 1 ∧ fsub b a = roundSigned (!s) (m - n) 1) ∧
    (s = t → m = n → fsub a b = 0#64) ∧
    fmul a b = roundSigned (s != t) (m * n) (2 ^ 1074) ∧
    (0 < n → fdiv a b = roundSigned (s != t) (m * 2 ^ 1074) n))

/-- 00_scope.md R12, R15: the square root is correctly rounded. For a positive finite number every other finite non-negative binary64
number is further from the exact root, so there is no tie (the root of `m` units of 2^-1074 is the root of `m * 2^1074` in the same
units). The cases of the two zeros, the infinities, a negative number and a NaN are the standard's, which the spec names
(assumption 19). -/
def Obligations.SquareRootIsCorrectlyRounded : Prop :=
  (∀ (a : Real64) (m : Nat), datumOf a = .fin false m → 0 < m →
    ∃ mf : Nat, datumOf (fsqrt a) = .fin false mf ∧
      ∀ (b : Real64) (mb : Nat), datumOf b = .fin false mb → b ≠ fsqrt a →
        |(mf : ℝ) - √((m : ℝ) * 2 ^ 1074)| < |(mb : ℝ) - √((m : ℝ) * 2 ^ 1074)|) ∧
  (∀ (a : Real64) (neg : Bool), datumOf a = .fin neg 0 → fsqrt a = a) ∧
  (∀ a : Real64, datumOf a = .inf false → fsqrt a = a) ∧
  (∀ a : Real64, datumOf a = .nan ∨ datumOf a = .inf true ∨ (∃ m, 0 < m ∧ datumOf a = .fin true m) →
    datumOf (fsqrt a) = .nan)

/-- 44_complex_state_normalizer.md R129, 93_implementation_defined.md I2: whatever the free bits of a NaN are, an operation's NaN is a
NaN, and no comparison with it holds. -/
def Obligations.NanComparesFalse : Prop :=
  ∀ (op : Config.FloatOp) (a b x : Real64),
    datumOf (quietNaN op a b) = .nan ∧ isFinite (quietNaN op a b) = false ∧
    flt (quietNaN op a b) x = false ∧ flt x (quietNaN op a b) = false ∧
    fle (quietNaN op a b) x = false ∧ fle x (quietNaN op a b) = false

/-- 10_state.md R40, 44_complex_state_normalizer.md R131: amplitudes that are real, non-negative and at most 2.0 stay so through every
step. The bound 2.0 is the model's, chosen so that the fact is inductive (assumption 22). -/
def Obligations.TameKeptByEveryStep : Prop :=
  ∀ s t : State, s.Tame → step s = .next t → t.Tame

/-- The amplitudes of the model's reset state, and of the initial state of a context, are tame. The reset contents of `S` and `HB` are
the model's choice (assumption 1). -/
def Obligations.TameAtResetAndInit : Prop :=
  State.reset.Tame ∧ ∀ s : State, (initState s).Tame

/-- 45_amplitude_compressor.md R139, 60_exceptions.md R159: with tame amplitudes a FINALIZE in an open context always completes, padding
included, and ends in DONE with `LONG` set. -/
def Obligations.TameFinalizeCompletes : Prop :=
  ∀ s : State, s.Tame → s.phase = .absorb → s.ovr = false →
    ∃ t, exec .finalize s = .next t ∧ t.phase = .done ∧ t.long = true

/-! ### Padding (41_preprocessor.md) -/

/-- 41_preprocessor.md R104: `PadTail` absorbs exactly the `64 - POS` padding bytes, ends at position 64 with `LONG` set, and leaves
`SUM` and everything but the walk as it was. -/
def Obligations.PadTailResult : Prop :=
  ∀ s : State, s.long = false → s.pos.toNat < 64 →
    let bytes := padBytes (64 - s.pos.toNat) (if s.pos = 0 then 0xDEADBEEF#64 else s.sum)
    let t := padTail s
    let u := absorbBytes bytes s
    bytes.length = 64 - s.pos.toNat ∧
    t = { s with amps := t.amps, hb := t.hb, hptr := t.hptr, pos := 64, long := true } ∧
    t.amps = u.amps ∧ t.hb = u.hb ∧ t.hptr = u.hptr

/-- 41_preprocessor.md R105: the padding bytes depend on the seed only through its low 8 bits. -/
def Obligations.PaddingReadsSeedModulo256 : Prop :=
  ∀ (n : Nat) (a b : Word), a.toNat % 256 = b.toNat % 256 → padBytes n a = padBytes n b

/-- 41_preprocessor.md R100: the padded buffer has length `max(64, L)`, begins with the message, and is the message from 64 bytes
on. -/
def Obligations.PadExtendsToMinimum : Prop :=
  ∀ m : List Byte,
    (pad m).length = max 64 m.length ∧ (∀ i, i < m.length → (pad m)[i]? = m[i]?) ∧ (64 ≤ m.length → pad m = m)

/-! ### The compressor and the squeezer (45_amplitude_compressor.md, 46_output_squeezer.md) -/

/-- 45_amplitude_compressor.md R135, R139: the quantised value is the truncated product, and there is none when the product is NaN,
infinite, negative or at least 2^64. -/
def Obligations.QuantizeIsTruncatedProduct : Prop :=
  ∀ (z : Cplx) (v : Word),
    let p := fmul (fadd (fmul z.re z.re) (fmul z.im z.im)) 0x41EFFFFFFFE00000#64
    quantize z = some v ↔ trunc p = some (v.toNat : Int) ∧ flt p 0#64 = false

/-- 45_amplitude_compressor.md R136, R137: slot `j` is built by its 64 positions `j, j + 8, ..., j + 504`, in increasing order. -/
def Obligations.CompressSlotBySlot : Prop :=
  ∀ (v : Amps) (acc : Bank 8 Word), compress v = some acc →
    ∀ j, j < 8 →
      acc.cell j = (List.range 64).foldl (fun a m =>
        let i := j + 8 * m
        let q := (quantize (v.cell i)).getD 0
        let mixer := if i % 63 = 0 then q else (q <<< (i % 63)) ||| (q >>> (64 - i % 63))
        let x := a ^^^ (mixer * 0xBF58476D1CE4E5B9#64)
        ((x <<< 13) ||| (x >>> 51)) + BitVec.ofNat 64 i * 0x94D049BB133111EB#64) 0#64

/-- 46_output_squeezer.md R144: the words for a shorter output are the first words of the longest, the words differ from one another
only by the rotated accumulator words, and a zero accumulator gives zero words. -/
def Obligations.SqueezeStructure : Prop :=
  (∀ (acc : Bank 8 Word) (n : Nat), n ≤ 8 → squeeze acc n = (squeeze acc 8).take n) ∧
  (∀ acc : Bank 8 Word, ∃ g : Word, ∀ k, k < 8 → squeezeWord acc k = rotl64 (acc.cell k) 40 ^^^ g) ∧
  (∀ acc : Bank 8 Word, (∀ k, k < 8 → acc.cell k = 0) → ∀ k, k < 8 → squeezeWord acc k = 0)

/-- 40_host_commands.md R92, 46_output_squeezer.md R147: FINALIZE in an open context pads when `LONG = 0`, compresses, and writes the
squeezed words below `OW` and 0 above. It completes whenever the compressor has a value for every product of the padded state. Padding
writes only the walk, `POS` and `LONG` (PadTailResult). -/
def Obligations.FinalizeResult : Prop :=
  ∀ s : State, s.phase = .absorb → s.ovr = false → (if s.long then s else padTail s).amps.quantizable →
    ∃ acc t, compress (if s.long then s else padTail s).amps = some acc ∧ exec .finalize s = .next t ∧
      t = { (if s.long then s else padTail s) with acc := acc, dig := t.dig, phase := .done, busy := false } ∧
      ∀ k, k < 8 → t.dig.cell k = if k < s.ow.toNat then squeezeWord acc k else 0

/-- 45_amplitude_compressor.md R139, 93_implementation_defined.md I4: FINALIZE in an open context stops with the model fault exactly
when the compressor has no value for some product of the padded state. -/
def Obligations.FinalizeFaultsExactlyOutOfRange : Prop :=
  ∀ s : State, s.phase = .absorb →
    (exec .finalize s = .fault .quantRange ↔ ¬ (if s.long then s else padTail s).amps.quantizable)

/-! ### The digest (00_scope.md R17, 40_host_commands.md R97) -/

/-- 40_host_commands.md R97: a legal INIT, any sequence of ABSORB and ABSORBW commands with NOPs between them, and FINALIZE, each command
written while `BUSY = 0`, end in DONE with `ERRCODE = 0` and the digest of the absorbed message in `DIG`, whatever the state before. Each
command's engine step follows its write at once, which is the model's form of the sendings (assumption 21). -/
def Obligations.ContextComputesDigest : Prop :=
  ∀ (s : State) (ob : BitVec 16) (xs : List Send),
    s.busy = false → s.ovr = false → legalOutbits ob = true → (∀ x ∈ xs, x.wellFormed = true) →
    ∃ t ws, runContext ob xs s = .next t ∧ t.phase = .done ∧ t.errcode = .none ∧ t.ow.toNat = ob.toNat / 64 ∧
      digest (xs.flatMap Send.bytes) ob.toNat = some ws ∧ ∀ k, k < t.ow.toNat → ws[k]? = some (t.dig.cell k)

/-- 00_scope.md R17, 44_complex_state_normalizer.md R131, 60_exceptions.md R159: the digest is defined for every message, with
`output_bits / 64` words. R17 speaks of the legal lengths; that the function has a value at every other length too is the model's
totalisation (assumption 26). -/
def Obligations.DigestAlwaysDefined : Prop :=
  ∀ (m : List Byte) (ob : Nat), ∃ ws, digest m ob = some ws ∧ ws.length = ob / 64

/-- 70_reset_and_hazards.md R185, R186, 60_exceptions.md R152: the reference driver, for every encoder. Text that cannot be encoded is an
encoding failure, and text that can is its bytes; a length outside 64 to 512 in steps of 64 is a configuration error; neither issues a
command. For an accepted length the driver reports the digest in hexadecimal, also from a state in which a command is still pending,
which R185's first wait serves (with its overrun, if one is latched), so long as that command's step answers a next state. The driver
issues as assumption 21 says. -/
def Obligations.DriverReportsDigest : Prop :=
  ∀ (utf8Encode : String → Option (List Byte)) (s : State) (bits : Int),
    (∀ x, utf8Encode x = none → driverHash utf8Encode (.text x) bits s = .next (.encodingFailure, s)) ∧
    (∀ x m, utf8Encode x = some m → driverHash utf8Encode (.text x) bits s = driverHash utf8Encode (.bytes m) bits s) ∧
    ∀ m : List Byte,
      (¬ (64 ≤ bits ∧ bits ≤ 512 ∧ bits % 64 = 0) →
        driverHash utf8Encode (.bytes m) bits s = .next (.configurationError, s)) ∧
      ((64 ≤ bits ∧ bits ≤ 512 ∧ bits % 64 = 0) → (s.ovr = true → s.busy = true) → (∃ s0, engineTurn s = .next s0) →
        ∃ ws t, digest m bits.toNat = some ws ∧
          driverHash utf8Encode (.bytes m) bits s = .next (.digest (hexText ws), t))

/-- 30_encoding.md R77: the pseudo-instruction `hash "text", N`, run as bus accesses with their waits from any state without a pending
command, comes to its end, and its last reads have answered the digest's words. The waits run as assumption 20 says. -/
def Obligations.HashProgramReadsDigest : Prop :=
  ∀ (s : State) (m : List Byte) (n : Nat), s.busy = false → s.ovr = false → n % 64 = 0 → 64 ≤ n → n ≤ 512 →
    s.agenda = hashEvents m n →
    ∃ k t ws, runSteps k s = .next t ∧ t.agenda = [] ∧ digest m n = some ws ∧
      t.replies.take (n / 64) = (ws.map BusReply.value).reverse

/-! ### Whole-machine invariants and what cannot be seen -/

/-- The control state's bookkeeping (Safety.lean, State.Coherent) is kept by every step. -/
def Obligations.CoherentKeptByEveryStep : Prop :=
  ∀ s t : State, s.Coherent → step s = .next t → t.Coherent

/-- The state right after reset is coherent. -/
def Obligations.CoherentAtReset : Prop := State.reset.Coherent

/-- 70_reset_and_hazards.md R172: outside an open context the contents of `S` and `HB` reach nothing. Two states that differ only there
step alike, and stay so or become equal (a legal INIT writes both). -/
def Obligations.ClosedStoresReachNothing : Prop :=
  ∀ s t : State, s = t ∨ SameButStores s t →
    OutcomesRelated (fun a b => a = b ∨ SameButStores a b) (step s) (step t)

/-- 10_state.md R27, R39: which bank holds which snapshot changes no result. Two states with the same logical history step alike. -/
def Obligations.BankPlacementChangesNothing : Prop :=
  ∀ s t : State, SameLogical s t → OutcomesRelated SameLogical (step s) (step t)

/-- 10_state.md R42, 70_reset_and_hazards.md R170, R173: reset, at any time, leaves every piece of state the spec gives a value at that
value, drops a pending command, and every register then reads 0. The same holds of the state the model starts in. -/
def Obligations.ResetValues : Prop :=
  let atReset : State → Prop := fun t =>
    t.phase = .idle ∧ t.busy = false ∧ t.pcmd = 0 ∧ t.pdata = 0 ∧ t.ovr = false ∧ t.errcode = .none ∧ t.outbits = 0 ∧ t.ow = 0 ∧
    t.hptr = 0 ∧ t.pos = 0 ∧ t.long = false ∧ t.sum = 0 ∧ t.data = 0 ∧
    (∀ k, k < 8 → t.acc.cell k = 0 ∧ t.dig.cell k = 0) ∧
    ∀ k, k < 16 → memRead (BitVec.ofNat 7 (8 * k)) 8 t = .ok 0
  atReset State.reset ∧
  ∀ (s : State) (rest : List Event), s.agenda = .reset :: rest →
    ∃ t, step s = .next t ∧ atReset t ∧ t.agenda = rest ∧ t.replies = s.replies
end

