-- ==== Sys2Proof/Laws/Binary64.lean ====
section
/-! SUPPORT. The small lemmas of the binary64 definitions: the bisecting logarithm is `Nat.log2`, the bitwise root is `Nat.sqrt`,
and the data of a few patterns. -/

namespace Sys2Proof.Machine

theorem bitLog_eq_log2 (k : Nat) : ∀ n, 0 < n → n < 2 ^ 2 ^ k → bitLog k n = Nat.log2 n := by
  induction k with
  | zero =>
    intro n h0 h1
    have : n = 1 := by simp at h1; omega
    subst this
    decide
  | succ k ih =>
    intro n h0 h1
    have hsq : (2 : Nat) ^ 2 ^ (k + 1) = 2 ^ 2 ^ k * 2 ^ 2 ^ k := by rw [← Nat.pow_add, ← Nat.mul_two, ← Nat.pow_succ]
    have hpos : 0 < (2 : Nat) ^ 2 ^ k := Nat.two_pow_pos _
    unfold bitLog
    split
    · rename_i hle
      have hq0 : 0 < n / 2 ^ 2 ^ k := Nat.div_pos hle hpos
      have hq1 : n / 2 ^ 2 ^ k < 2 ^ 2 ^ k := Nat.div_lt_of_lt_mul (hsq ▸ h1)
      rw [ih _ hq0 hq1]
      have hne : n / 2 ^ 2 ^ k ≠ 0 := by omega
      have hlog := (Nat.log2_eq_iff hne (k := Nat.log2 (n / 2 ^ 2 ^ k))).1 rfl
      symm
      rw [Nat.log2_eq_iff (by omega), Nat.add_assoc, Nat.pow_add, Nat.pow_add]
      constructor
      · calc _ ≤ 2 ^ 2 ^ k * (n / 2 ^ 2 ^ k) := Nat.mul_le_mul_left _ hlog.1
          _ ≤ n := Nat.mul_div_le _ _
      · have : n < 2 ^ 2 ^ k * (n / 2 ^ 2 ^ k + 1) := Nat.lt_mul_div_succ _ hpos
        exact Nat.lt_of_lt_of_le this (Nat.mul_le_mul_left _ hlog.2)
    · rename_i hlt
      exact ih n h0 (by omega)

/-- `bitLog 12` serves every magnitude that an operation on finite numbers forms. -/
theorem bitLog_twelve {n : Nat} (h0 : 0 < n) (h : n < 2 ^ 2 ^ 12) : bitLog 12 n = Nat.log2 n :=
  bitLog_eq_log2 12 n h0 h

/-- The bitwise search for a root finds the integer square root, if the root lies in the range it searches. -/
theorem rootBits_eq_sqrt (m : Nat) (bits : Nat) : ∀ q, q * q ≤ m → m < (q + 2 ^ bits) * (q + 2 ^ bits) →
    rootBits m bits q = Nat.sqrt m := by
  induction bits with
  | zero => intro q low high; exact Nat.eq_sqrt.2 ⟨low, high⟩
  | succ bits ih =>
    intro q low high
    have range : q + 2 ^ bits + 2 ^ bits = q + 2 ^ (bits + 1) := by rw [Nat.pow_succ]; omega
    unfold rootBits
    split
    · rename_i reaches
      exact ih _ reaches (by rwa [range])
    · rename_i beyond
      exact ih q low (by omega)

@[simp] theorem datumOf_posZero : datumOf posZero = .fin false 0 := by decide

@[simp] theorem datumOf_one : datumOf one = .fin false unit64 := by decide +kernel

@[simp] theorem isFinite_posZero : isFinite posZero = true := by decide

end Sys2Proof.Machine
end

