-- ==== Sys2Proof/Laws/State.lean ====
section
/-! SUPPORT. What each field holds after each named update of the state: one lemma per field per update, true by rfl, so that no later
proof unfolds a record update. The updates that branch are in Laws/Exec.lean. -/

namespace Sys2Proof.Machine

/-! ### After raising an error -/

@[simp] theorem raiseErr_phase (c : ErrCode) (s : State) : (raiseErr c s).phase = .error := rfl
@[simp] theorem raiseErr_busy (c : ErrCode) (s : State) : (raiseErr c s).busy = s.busy := rfl
@[simp] theorem raiseErr_pcmd (c : ErrCode) (s : State) : (raiseErr c s).pcmd = s.pcmd := rfl
@[simp] theorem raiseErr_pdata (c : ErrCode) (s : State) : (raiseErr c s).pdata = s.pdata := rfl
@[simp] theorem raiseErr_ovr (c : ErrCode) (s : State) : (raiseErr c s).ovr = s.ovr := rfl
@[simp] theorem raiseErr_errcode (c : ErrCode) (s : State) : (raiseErr c s).errcode = c := rfl
@[simp] theorem raiseErr_outbits (c : ErrCode) (s : State) : (raiseErr c s).outbits = s.outbits := rfl
@[simp] theorem raiseErr_ow (c : ErrCode) (s : State) : (raiseErr c s).ow = s.ow := rfl
@[simp] theorem raiseErr_amps (c : ErrCode) (s : State) : (raiseErr c s).amps = s.amps := rfl
@[simp] theorem raiseErr_hb (c : ErrCode) (s : State) : (raiseErr c s).hb = s.hb := rfl
@[simp] theorem raiseErr_hptr (c : ErrCode) (s : State) : (raiseErr c s).hptr = s.hptr := rfl
@[simp] theorem raiseErr_pos (c : ErrCode) (s : State) : (raiseErr c s).pos = s.pos := rfl
@[simp] theorem raiseErr_long (c : ErrCode) (s : State) : (raiseErr c s).long = s.long := rfl
@[simp] theorem raiseErr_sum (c : ErrCode) (s : State) : (raiseErr c s).sum = s.sum := rfl
@[simp] theorem raiseErr_acc (c : ErrCode) (s : State) : (raiseErr c s).acc = s.acc := rfl
@[simp] theorem raiseErr_dig (c : ErrCode) (s : State) : (raiseErr c s).dig = s.dig := rfl
@[simp] theorem raiseErr_data (c : ErrCode) (s : State) : (raiseErr c s).data = s.data := rfl
@[simp] theorem raiseErr_agenda (c : ErrCode) (s : State) : (raiseErr c s).agenda = s.agenda := rfl
@[simp] theorem raiseErr_replies (c : ErrCode) (s : State) : (raiseErr c s).replies = s.replies := rfl

/-! ### After appending a snapshot -/

@[simp] theorem appendHist_phase (s : State) (t : Amps) : (s.appendHist t).phase = s.phase := rfl
@[simp] theorem appendHist_busy (s : State) (t : Amps) : (s.appendHist t).busy = s.busy := rfl
@[simp] theorem appendHist_pcmd (s : State) (t : Amps) : (s.appendHist t).pcmd = s.pcmd := rfl
@[simp] theorem appendHist_pdata (s : State) (t : Amps) : (s.appendHist t).pdata = s.pdata := rfl
@[simp] theorem appendHist_ovr (s : State) (t : Amps) : (s.appendHist t).ovr = s.ovr := rfl
@[simp] theorem appendHist_errcode (s : State) (t : Amps) : (s.appendHist t).errcode = s.errcode := rfl
@[simp] theorem appendHist_outbits (s : State) (t : Amps) : (s.appendHist t).outbits = s.outbits := rfl
@[simp] theorem appendHist_ow (s : State) (t : Amps) : (s.appendHist t).ow = s.ow := rfl
@[simp] theorem appendHist_amps (s : State) (t : Amps) : (s.appendHist t).amps = s.amps := rfl
@[simp] theorem appendHist_hb (s : State) (t : Amps) : (s.appendHist t).hb = s.hb.put s.hptr.toNat t := rfl
@[simp] theorem appendHist_hptr (s : State) (t : Amps) : (s.appendHist t).hptr = s.hptr + 1 := rfl
@[simp] theorem appendHist_pos (s : State) (t : Amps) : (s.appendHist t).pos = s.pos := rfl
@[simp] theorem appendHist_long (s : State) (t : Amps) : (s.appendHist t).long = s.long := rfl
@[simp] theorem appendHist_sum (s : State) (t : Amps) : (s.appendHist t).sum = s.sum := rfl
@[simp] theorem appendHist_acc (s : State) (t : Amps) : (s.appendHist t).acc = s.acc := rfl
@[simp] theorem appendHist_dig (s : State) (t : Amps) : (s.appendHist t).dig = s.dig := rfl
@[simp] theorem appendHist_data (s : State) (t : Amps) : (s.appendHist t).data = s.data := rfl
@[simp] theorem appendHist_agenda (s : State) (t : Amps) : (s.appendHist t).agenda = s.agenda := rfl
@[simp] theorem appendHist_replies (s : State) (t : Amps) : (s.appendHist t).replies = s.replies := rfl

/-! ### After `InitState()` -/

@[simp] theorem initState_phase (s : State) : (initState s).phase = s.phase := rfl
@[simp] theorem initState_busy (s : State) : (initState s).busy = s.busy := rfl
@[simp] theorem initState_pcmd (s : State) : (initState s).pcmd = s.pcmd := rfl
@[simp] theorem initState_pdata (s : State) : (initState s).pdata = s.pdata := rfl
@[simp] theorem initState_ovr (s : State) : (initState s).ovr = s.ovr := rfl
@[simp] theorem initState_errcode (s : State) : (initState s).errcode = s.errcode := rfl
@[simp] theorem initState_outbits (s : State) : (initState s).outbits = s.outbits := rfl
@[simp] theorem initState_ow (s : State) : (initState s).ow = s.ow := rfl
@[simp] theorem initState_amps (s : State) : (initState s).amps = initialAmps := rfl
@[simp] theorem initState_hb (s : State) : (initState s).hb = Bank.replicate Config.hd initialAmps := rfl
@[simp] theorem initState_hptr (s : State) : (initState s).hptr = 0 := rfl
@[simp] theorem initState_pos (s : State) : (initState s).pos = s.pos := rfl
@[simp] theorem initState_long (s : State) : (initState s).long = s.long := rfl
@[simp] theorem initState_sum (s : State) : (initState s).sum = s.sum := rfl
@[simp] theorem initState_acc (s : State) : (initState s).acc = s.acc := rfl
@[simp] theorem initState_dig (s : State) : (initState s).dig = s.dig := rfl
@[simp] theorem initState_data (s : State) : (initState s).data = s.data := rfl
@[simp] theorem initState_agenda (s : State) : (initState s).agenda = s.agenda := rfl
@[simp] theorem initState_replies (s : State) : (initState s).replies = s.replies := rfl

/-! ### After a legal INIT's effect -/

@[simp] theorem openContext_phase (ob : BitVec 16) (s : State) : (openContext ob s).phase = .absorb := rfl
@[simp] theorem openContext_busy (ob : BitVec 16) (s : State) : (openContext ob s).busy = s.busy := rfl
@[simp] theorem openContext_pcmd (ob : BitVec 16) (s : State) : (openContext ob s).pcmd = s.pcmd := rfl
@[simp] theorem openContext_pdata (ob : BitVec 16) (s : State) : (openContext ob s).pdata = s.pdata := rfl
@[simp] theorem openContext_ovr (ob : BitVec 16) (s : State) : (openContext ob s).ovr = s.ovr := rfl
@[simp] theorem openContext_errcode (ob : BitVec 16) (s : State) : (openContext ob s).errcode = .none := rfl
@[simp] theorem openContext_outbits (ob : BitVec 16) (s : State) : (openContext ob s).outbits = ob := rfl
@[simp] theorem openContext_ow (ob : BitVec 16) (s : State) : (openContext ob s).ow = BitVec.ofNat 4 (ob.toNat / 64) := rfl
@[simp] theorem openContext_amps (ob : BitVec 16) (s : State) : (openContext ob s).amps = initialAmps := rfl
@[simp] theorem openContext_hb (ob : BitVec 16) (s : State) : (openContext ob s).hb = Bank.replicate Config.hd initialAmps := rfl
@[simp] theorem openContext_hptr (ob : BitVec 16) (s : State) : (openContext ob s).hptr = 0 := rfl
@[simp] theorem openContext_pos (ob : BitVec 16) (s : State) : (openContext ob s).pos = 0 := rfl
@[simp] theorem openContext_long (ob : BitVec 16) (s : State) : (openContext ob s).long = false := rfl
@[simp] theorem openContext_sum (ob : BitVec 16) (s : State) : (openContext ob s).sum = 0 := rfl
@[simp] theorem openContext_acc (ob : BitVec 16) (s : State) : (openContext ob s).acc = Bank.replicate _ 0 := rfl
@[simp] theorem openContext_dig (ob : BitVec 16) (s : State) : (openContext ob s).dig = s.dig := rfl
@[simp] theorem openContext_data (ob : BitVec 16) (s : State) : (openContext ob s).data = s.data := rfl
@[simp] theorem openContext_agenda (ob : BitVec 16) (s : State) : (openContext ob s).agenda = s.agenda := rfl
@[simp] theorem openContext_replies (ob : BitVec 16) (s : State) : (openContext ob s).replies = s.replies := rfl

/-! ### After an illegal INIT's effect -/

@[simp] theorem rejectConfig_phase (s : State) : (rejectConfig s).phase = .error := rfl
@[simp] theorem rejectConfig_busy (s : State) : (rejectConfig s).busy = s.busy := rfl
@[simp] theorem rejectConfig_pcmd (s : State) : (rejectConfig s).pcmd = s.pcmd := rfl
@[simp] theorem rejectConfig_pdata (s : State) : (rejectConfig s).pdata = s.pdata := rfl
@[simp] theorem rejectConfig_ovr (s : State) : (rejectConfig s).ovr = s.ovr := rfl
@[simp] theorem rejectConfig_errcode (s : State) : (rejectConfig s).errcode = .cfgInvalid := rfl
@[simp] theorem rejectConfig_outbits (s : State) : (rejectConfig s).outbits = 0 := rfl
@[simp] theorem rejectConfig_ow (s : State) : (rejectConfig s).ow = 0 := rfl
@[simp] theorem rejectConfig_amps (s : State) : (rejectConfig s).amps = s.amps := rfl
@[simp] theorem rejectConfig_hb (s : State) : (rejectConfig s).hb = s.hb := rfl
@[simp] theorem rejectConfig_hptr (s : State) : (rejectConfig s).hptr = s.hptr := rfl
@[simp] theorem rejectConfig_pos (s : State) : (rejectConfig s).pos = s.pos := rfl
@[simp] theorem rejectConfig_long (s : State) : (rejectConfig s).long = s.long := rfl
@[simp] theorem rejectConfig_sum (s : State) : (rejectConfig s).sum = s.sum := rfl
@[simp] theorem rejectConfig_acc (s : State) : (rejectConfig s).acc = s.acc := rfl
@[simp] theorem rejectConfig_dig (s : State) : (rejectConfig s).dig = s.dig := rfl
@[simp] theorem rejectConfig_data (s : State) : (rejectConfig s).data = s.data := rfl
@[simp] theorem rejectConfig_agenda (s : State) : (rejectConfig s).agenda = s.agenda := rfl
@[simp] theorem rejectConfig_replies (s : State) : (rejectConfig s).replies = s.replies := rfl

/-! ### After advancing the position -/

@[simp] theorem advancePos_phase (s : State) : (advancePos s).phase = s.phase := rfl
@[simp] theorem advancePos_busy (s : State) : (advancePos s).busy = s.busy := rfl
@[simp] theorem advancePos_pcmd (s : State) : (advancePos s).pcmd = s.pcmd := rfl
@[simp] theorem advancePos_pdata (s : State) : (advancePos s).pdata = s.pdata := rfl
@[simp] theorem advancePos_ovr (s : State) : (advancePos s).ovr = s.ovr := rfl
@[simp] theorem advancePos_errcode (s : State) : (advancePos s).errcode = s.errcode := rfl
@[simp] theorem advancePos_outbits (s : State) : (advancePos s).outbits = s.outbits := rfl
@[simp] theorem advancePos_ow (s : State) : (advancePos s).ow = s.ow := rfl
@[simp] theorem advancePos_amps (s : State) : (advancePos s).amps = s.amps := rfl
@[simp] theorem advancePos_hb (s : State) : (advancePos s).hb = s.hb := rfl
@[simp] theorem advancePos_hptr (s : State) : (advancePos s).hptr = s.hptr := rfl
@[simp] theorem advancePos_pos (s : State) : (advancePos s).pos = s.pos + 1 := rfl
@[simp] theorem advancePos_long (s : State) : (advancePos s).long = (s.long || decide (s.pos + 1 = 64)) := rfl
@[simp] theorem advancePos_sum (s : State) : (advancePos s).sum = s.sum := rfl
@[simp] theorem advancePos_acc (s : State) : (advancePos s).acc = s.acc := rfl
@[simp] theorem advancePos_dig (s : State) : (advancePos s).dig = s.dig := rfl
@[simp] theorem advancePos_data (s : State) : (advancePos s).data = s.data := rfl
@[simp] theorem advancePos_agenda (s : State) : (advancePos s).agenda = s.agenda := rfl
@[simp] theorem advancePos_replies (s : State) : (advancePos s).replies = s.replies := rfl

/-! ### After one evolution step -/

@[simp] theorem evolveStep_phase (b : Byte) (i : Word) (s : State) : (evolveStep b i s).phase = s.phase := rfl
@[simp] theorem evolveStep_busy (b : Byte) (i : Word) (s : State) : (evolveStep b i s).busy = s.busy := rfl
@[simp] theorem evolveStep_pcmd (b : Byte) (i : Word) (s : State) : (evolveStep b i s).pcmd = s.pcmd := rfl
@[simp] theorem evolveStep_pdata (b : Byte) (i : Word) (s : State) : (evolveStep b i s).pdata = s.pdata := rfl
@[simp] theorem evolveStep_ovr (b : Byte) (i : Word) (s : State) : (evolveStep b i s).ovr = s.ovr := rfl
@[simp] theorem evolveStep_errcode (b : Byte) (i : Word) (s : State) : (evolveStep b i s).errcode = s.errcode := rfl
@[simp] theorem evolveStep_outbits (b : Byte) (i : Word) (s : State) : (evolveStep b i s).outbits = s.outbits := rfl
@[simp] theorem evolveStep_ow (b : Byte) (i : Word) (s : State) : (evolveStep b i s).ow = s.ow := rfl
@[simp] theorem evolveStep_amps (b : Byte) (i : Word) (s : State) : (evolveStep b i s).amps = periodic i (stabilized b i s.amps (s.hist 0) (s.hist 2) (s.hist 3)) := rfl
@[simp] theorem evolveStep_hb (b : Byte) (i : Word) (s : State) : (evolveStep b i s).hb = s.hb.put s.hptr.toNat (stabilized b i s.amps (s.hist 0) (s.hist 2) (s.hist 3)) := rfl
@[simp] theorem evolveStep_hptr (b : Byte) (i : Word) (s : State) : (evolveStep b i s).hptr = s.hptr + 1 := rfl
@[simp] theorem evolveStep_pos (b : Byte) (i : Word) (s : State) : (evolveStep b i s).pos = s.pos := rfl
@[simp] theorem evolveStep_long (b : Byte) (i : Word) (s : State) : (evolveStep b i s).long = s.long := rfl
@[simp] theorem evolveStep_sum (b : Byte) (i : Word) (s : State) : (evolveStep b i s).sum = s.sum := rfl
@[simp] theorem evolveStep_acc (b : Byte) (i : Word) (s : State) : (evolveStep b i s).acc = s.acc := rfl
@[simp] theorem evolveStep_dig (b : Byte) (i : Word) (s : State) : (evolveStep b i s).dig = s.dig := rfl
@[simp] theorem evolveStep_data (b : Byte) (i : Word) (s : State) : (evolveStep b i s).data = s.data := rfl
@[simp] theorem evolveStep_agenda (b : Byte) (i : Word) (s : State) : (evolveStep b i s).agenda = s.agenda := rfl
@[simp] theorem evolveStep_replies (b : Byte) (i : Word) (s : State) : (evolveStep b i s).replies = s.replies := rfl

/-! ### After absorbing one byte -/

@[simp] theorem absorbByte_phase (b : Byte) (s : State) : (absorbByte b s).phase = s.phase := rfl
@[simp] theorem absorbByte_busy (b : Byte) (s : State) : (absorbByte b s).busy = s.busy := rfl
@[simp] theorem absorbByte_pcmd (b : Byte) (s : State) : (absorbByte b s).pcmd = s.pcmd := rfl
@[simp] theorem absorbByte_pdata (b : Byte) (s : State) : (absorbByte b s).pdata = s.pdata := rfl
@[simp] theorem absorbByte_ovr (b : Byte) (s : State) : (absorbByte b s).ovr = s.ovr := rfl
@[simp] theorem absorbByte_errcode (b : Byte) (s : State) : (absorbByte b s).errcode = s.errcode := rfl
@[simp] theorem absorbByte_outbits (b : Byte) (s : State) : (absorbByte b s).outbits = s.outbits := rfl
@[simp] theorem absorbByte_ow (b : Byte) (s : State) : (absorbByte b s).ow = s.ow := rfl
@[simp] theorem absorbByte_amps (b : Byte) (s : State) : (absorbByte b s).amps = (evolveStep b s.pos s).amps := rfl
@[simp] theorem absorbByte_hb (b : Byte) (s : State) : (absorbByte b s).hb = (evolveStep b s.pos s).hb := rfl
@[simp] theorem absorbByte_hptr (b : Byte) (s : State) : (absorbByte b s).hptr = s.hptr + 1 := rfl
@[simp] theorem absorbByte_pos (b : Byte) (s : State) : (absorbByte b s).pos = s.pos + 1 := rfl
@[simp] theorem absorbByte_long (b : Byte) (s : State) : (absorbByte b s).long = (s.long || decide (s.pos + 1 = 64)) := rfl
@[simp] theorem absorbByte_sum (b : Byte) (s : State) : (absorbByte b s).sum = s.sum + b.setWidth 64 := rfl
@[simp] theorem absorbByte_acc (b : Byte) (s : State) : (absorbByte b s).acc = s.acc := rfl
@[simp] theorem absorbByte_dig (b : Byte) (s : State) : (absorbByte b s).dig = s.dig := rfl
@[simp] theorem absorbByte_data (b : Byte) (s : State) : (absorbByte b s).data = s.data := rfl
@[simp] theorem absorbByte_agenda (b : Byte) (s : State) : (absorbByte b s).agenda = s.agenda := rfl
@[simp] theorem absorbByte_replies (b : Byte) (s : State) : (absorbByte b s).replies = s.replies := rfl

/-! ### After absorbing one padding byte -/

@[simp] theorem padOnce_phase (seed : Word) (s : State) : (padOnce seed s).phase = s.phase := rfl
@[simp] theorem padOnce_busy (seed : Word) (s : State) : (padOnce seed s).busy = s.busy := rfl
@[simp] theorem padOnce_pcmd (seed : Word) (s : State) : (padOnce seed s).pcmd = s.pcmd := rfl
@[simp] theorem padOnce_pdata (seed : Word) (s : State) : (padOnce seed s).pdata = s.pdata := rfl
@[simp] theorem padOnce_ovr (seed : Word) (s : State) : (padOnce seed s).ovr = s.ovr := rfl
@[simp] theorem padOnce_errcode (seed : Word) (s : State) : (padOnce seed s).errcode = s.errcode := rfl
@[simp] theorem padOnce_outbits (seed : Word) (s : State) : (padOnce seed s).outbits = s.outbits := rfl
@[simp] theorem padOnce_ow (seed : Word) (s : State) : (padOnce seed s).ow = s.ow := rfl
@[simp] theorem padOnce_amps (seed : Word) (s : State) : (padOnce seed s).amps = (evolveStep (padByte seed) s.pos s).amps := rfl
@[simp] theorem padOnce_hb (seed : Word) (s : State) : (padOnce seed s).hb = (evolveStep (padByte seed) s.pos s).hb := rfl
@[simp] theorem padOnce_hptr (seed : Word) (s : State) : (padOnce seed s).hptr = s.hptr + 1 := rfl
@[simp] theorem padOnce_pos (seed : Word) (s : State) : (padOnce seed s).pos = s.pos + 1 := rfl
@[simp] theorem padOnce_long (seed : Word) (s : State) : (padOnce seed s).long = (s.long || decide (s.pos + 1 = 64)) := rfl
@[simp] theorem padOnce_sum (seed : Word) (s : State) : (padOnce seed s).sum = s.sum := rfl
@[simp] theorem padOnce_acc (seed : Word) (s : State) : (padOnce seed s).acc = s.acc := rfl
@[simp] theorem padOnce_dig (seed : Word) (s : State) : (padOnce seed s).dig = s.dig := rfl
@[simp] theorem padOnce_data (seed : Word) (s : State) : (padOnce seed s).data = s.data := rfl
@[simp] theorem padOnce_agenda (seed : Word) (s : State) : (padOnce seed s).agenda = s.agenda := rfl
@[simp] theorem padOnce_replies (seed : Word) (s : State) : (padOnce seed s).replies = s.replies := rfl

/-! ### After publishing the digest -/

@[simp] theorem publish_phase (a : Bank Config.aw Word) (s : State) : (publish a s).phase = .done := rfl
@[simp] theorem publish_busy (a : Bank Config.aw Word) (s : State) : (publish a s).busy = s.busy := rfl
@[simp] theorem publish_pcmd (a : Bank Config.aw Word) (s : State) : (publish a s).pcmd = s.pcmd := rfl
@[simp] theorem publish_pdata (a : Bank Config.aw Word) (s : State) : (publish a s).pdata = s.pdata := rfl
@[simp] theorem publish_ovr (a : Bank Config.aw Word) (s : State) : (publish a s).ovr = s.ovr := rfl
@[simp] theorem publish_errcode (a : Bank Config.aw Word) (s : State) : (publish a s).errcode = s.errcode := rfl
@[simp] theorem publish_outbits (a : Bank Config.aw Word) (s : State) : (publish a s).outbits = s.outbits := rfl
@[simp] theorem publish_ow (a : Bank Config.aw Word) (s : State) : (publish a s).ow = s.ow := rfl
@[simp] theorem publish_amps (a : Bank Config.aw Word) (s : State) : (publish a s).amps = s.amps := rfl
@[simp] theorem publish_hb (a : Bank Config.aw Word) (s : State) : (publish a s).hb = s.hb := rfl
@[simp] theorem publish_hptr (a : Bank Config.aw Word) (s : State) : (publish a s).hptr = s.hptr := rfl
@[simp] theorem publish_pos (a : Bank Config.aw Word) (s : State) : (publish a s).pos = s.pos := rfl
@[simp] theorem publish_long (a : Bank Config.aw Word) (s : State) : (publish a s).long = s.long := rfl
@[simp] theorem publish_sum (a : Bank Config.aw Word) (s : State) : (publish a s).sum = s.sum := rfl
@[simp] theorem publish_acc (a : Bank Config.aw Word) (s : State) : (publish a s).acc = a := rfl
@[simp] theorem publish_dig (a : Bank Config.aw Word) (s : State) : (publish a s).dig = squeezeInto s.ow a := rfl
@[simp] theorem publish_data (a : Bank Config.aw Word) (s : State) : (publish a s).data = s.data := rfl
@[simp] theorem publish_agenda (a : Bank Config.aw Word) (s : State) : (publish a s).agenda = s.agenda := rfl
@[simp] theorem publish_replies (a : Bank Config.aw Word) (s : State) : (publish a s).replies = s.replies := rfl

/-! ### After accepting a command -/

@[simp] theorem acceptCommand_phase (v : Word) (s : State) : (acceptCommand v s).phase = s.phase := rfl
@[simp] theorem acceptCommand_busy (v : Word) (s : State) : (acceptCommand v s).busy = true := rfl
@[simp] theorem acceptCommand_pcmd (v : Word) (s : State) : (acceptCommand v s).pcmd = v := rfl
@[simp] theorem acceptCommand_pdata (v : Word) (s : State) : (acceptCommand v s).pdata = s.data := rfl
@[simp] theorem acceptCommand_ovr (v : Word) (s : State) : (acceptCommand v s).ovr = s.ovr := rfl
@[simp] theorem acceptCommand_errcode (v : Word) (s : State) : (acceptCommand v s).errcode = s.errcode := rfl
@[simp] theorem acceptCommand_outbits (v : Word) (s : State) : (acceptCommand v s).outbits = s.outbits := rfl
@[simp] theorem acceptCommand_ow (v : Word) (s : State) : (acceptCommand v s).ow = s.ow := rfl
@[simp] theorem acceptCommand_amps (v : Word) (s : State) : (acceptCommand v s).amps = s.amps := rfl
@[simp] theorem acceptCommand_hb (v : Word) (s : State) : (acceptCommand v s).hb = s.hb := rfl
@[simp] theorem acceptCommand_hptr (v : Word) (s : State) : (acceptCommand v s).hptr = s.hptr := rfl
@[simp] theorem acceptCommand_pos (v : Word) (s : State) : (acceptCommand v s).pos = s.pos := rfl
@[simp] theorem acceptCommand_long (v : Word) (s : State) : (acceptCommand v s).long = s.long := rfl
@[simp] theorem acceptCommand_sum (v : Word) (s : State) : (acceptCommand v s).sum = s.sum := rfl
@[simp] theorem acceptCommand_acc (v : Word) (s : State) : (acceptCommand v s).acc = s.acc := rfl
@[simp] theorem acceptCommand_dig (v : Word) (s : State) : (acceptCommand v s).dig = s.dig := rfl
@[simp] theorem acceptCommand_data (v : Word) (s : State) : (acceptCommand v s).data = s.data := rfl
@[simp] theorem acceptCommand_agenda (v : Word) (s : State) : (acceptCommand v s).agenda = s.agenda := rfl
@[simp] theorem acceptCommand_replies (v : Word) (s : State) : (acceptCommand v s).replies = s.replies := rfl

/-! ### After the bus's answer -/

@[simp] theorem record_phase (r : BusReply) (s : State) : (record r s).phase = s.phase := rfl
@[simp] theorem record_busy (r : BusReply) (s : State) : (record r s).busy = s.busy := rfl
@[simp] theorem record_pcmd (r : BusReply) (s : State) : (record r s).pcmd = s.pcmd := rfl
@[simp] theorem record_pdata (r : BusReply) (s : State) : (record r s).pdata = s.pdata := rfl
@[simp] theorem record_ovr (r : BusReply) (s : State) : (record r s).ovr = s.ovr := rfl
@[simp] theorem record_errcode (r : BusReply) (s : State) : (record r s).errcode = s.errcode := rfl
@[simp] theorem record_outbits (r : BusReply) (s : State) : (record r s).outbits = s.outbits := rfl
@[simp] theorem record_ow (r : BusReply) (s : State) : (record r s).ow = s.ow := rfl
@[simp] theorem record_amps (r : BusReply) (s : State) : (record r s).amps = s.amps := rfl
@[simp] theorem record_hb (r : BusReply) (s : State) : (record r s).hb = s.hb := rfl
@[simp] theorem record_hptr (r : BusReply) (s : State) : (record r s).hptr = s.hptr := rfl
@[simp] theorem record_pos (r : BusReply) (s : State) : (record r s).pos = s.pos := rfl
@[simp] theorem record_long (r : BusReply) (s : State) : (record r s).long = s.long := rfl
@[simp] theorem record_sum (r : BusReply) (s : State) : (record r s).sum = s.sum := rfl
@[simp] theorem record_acc (r : BusReply) (s : State) : (record r s).acc = s.acc := rfl
@[simp] theorem record_dig (r : BusReply) (s : State) : (record r s).dig = s.dig := rfl
@[simp] theorem record_data (r : BusReply) (s : State) : (record r s).data = s.data := rfl
@[simp] theorem record_agenda (r : BusReply) (s : State) : (record r s).agenda = s.agenda := rfl
@[simp] theorem record_replies (r : BusReply) (s : State) : (record r s).replies = r :: s.replies := rfl

/-! ### After reset -/

@[simp] theorem resetMachine_phase (s : State) : (resetMachine s).phase = State.reset.phase := rfl
@[simp] theorem resetMachine_busy (s : State) : (resetMachine s).busy = State.reset.busy := rfl
@[simp] theorem resetMachine_pcmd (s : State) : (resetMachine s).pcmd = State.reset.pcmd := rfl
@[simp] theorem resetMachine_pdata (s : State) : (resetMachine s).pdata = State.reset.pdata := rfl
@[simp] theorem resetMachine_ovr (s : State) : (resetMachine s).ovr = State.reset.ovr := rfl
@[simp] theorem resetMachine_errcode (s : State) : (resetMachine s).errcode = State.reset.errcode := rfl
@[simp] theorem resetMachine_outbits (s : State) : (resetMachine s).outbits = State.reset.outbits := rfl
@[simp] theorem resetMachine_ow (s : State) : (resetMachine s).ow = State.reset.ow := rfl
@[simp] theorem resetMachine_amps (s : State) : (resetMachine s).amps = State.reset.amps := rfl
@[simp] theorem resetMachine_hb (s : State) : (resetMachine s).hb = State.reset.hb := rfl
@[simp] theorem resetMachine_hptr (s : State) : (resetMachine s).hptr = State.reset.hptr := rfl
@[simp] theorem resetMachine_pos (s : State) : (resetMachine s).pos = State.reset.pos := rfl
@[simp] theorem resetMachine_long (s : State) : (resetMachine s).long = State.reset.long := rfl
@[simp] theorem resetMachine_sum (s : State) : (resetMachine s).sum = State.reset.sum := rfl
@[simp] theorem resetMachine_acc (s : State) : (resetMachine s).acc = State.reset.acc := rfl
@[simp] theorem resetMachine_dig (s : State) : (resetMachine s).dig = State.reset.dig := rfl
@[simp] theorem resetMachine_data (s : State) : (resetMachine s).data = State.reset.data := rfl
@[simp] theorem resetMachine_agenda (s : State) : (resetMachine s).agenda = s.agenda := rfl
@[simp] theorem resetMachine_replies (s : State) : (resetMachine s).replies = s.replies := rfl

end Sys2Proof.Machine
end

