-- ==== Sys2Proof/Laws/Exec.lean ====
section
/-! SUPPORT. What the shared operations of an engine step can do, said once: the end of a step, the tests before ABSORB, ABSORBW and
FINALIZE, and the padding loop. -/

namespace Sys2Proof.Machine

/-! ### The end of an engine step (40_host_commands.md R84, R85) -/

theorem resolveOverrun_of_not_ovr {s : State} (h : s.ovr = false) : resolveOverrun s = s := by
  simp [resolveOverrun, h]

theorem endStep_of_not_ovr {s : State} (h : s.ovr = false) : endStep s = { s with busy := false } := by
  simp [endStep, resolveOverrun_of_not_ovr h]

/-- Everything the end of a step does, with or without an overrun. -/
theorem endStep_eq (s : State) :
    endStep s = { s with
      busy := false, ovr := false,
      phase := if s.ovr then .error else s.phase,
      errcode := if s.ovr = true ∧ s.phase ≠ .error then .overrun else s.errcode } := by
  cases ho : s.ovr with
  | false => rw [endStep_of_not_ovr ho]; cases s; simp_all
  | true =>
    by_cases hp : s.phase = .error
    · simp [endStep, resolveOverrun, ho, hp]
    · simp [endStep, resolveOverrun, raiseErr, ho, hp]

@[simp] theorem endStep_busy (s : State) : (endStep s).busy = false := rfl
@[simp] theorem endStep_ovr (s : State) : (endStep s).ovr = false := by rw [endStep_eq]
@[simp] theorem endStep_phase (s : State) : (endStep s).phase = if s.ovr then .error else s.phase := by rw [endStep_eq]
@[simp] theorem endStep_errcode (s : State) :
    (endStep s).errcode = if s.ovr = true ∧ s.phase ≠ .error then .overrun else s.errcode := by rw [endStep_eq]
@[simp] theorem endStep_pcmd (s : State) : (endStep s).pcmd = s.pcmd := by rw [endStep_eq]
@[simp] theorem endStep_pdata (s : State) : (endStep s).pdata = s.pdata := by rw [endStep_eq]
@[simp] theorem endStep_outbits (s : State) : (endStep s).outbits = s.outbits := by rw [endStep_eq]
@[simp] theorem endStep_ow (s : State) : (endStep s).ow = s.ow := by rw [endStep_eq]
@[simp] theorem endStep_amps (s : State) : (endStep s).amps = s.amps := by rw [endStep_eq]
@[simp] theorem endStep_hb (s : State) : (endStep s).hb = s.hb := by rw [endStep_eq]
@[simp] theorem endStep_hptr (s : State) : (endStep s).hptr = s.hptr := by rw [endStep_eq]
@[simp] theorem endStep_pos (s : State) : (endStep s).pos = s.pos := by rw [endStep_eq]
@[simp] theorem endStep_long (s : State) : (endStep s).long = s.long := by rw [endStep_eq]
@[simp] theorem endStep_sum (s : State) : (endStep s).sum = s.sum := by rw [endStep_eq]
@[simp] theorem endStep_acc (s : State) : (endStep s).acc = s.acc := by rw [endStep_eq]
@[simp] theorem endStep_dig (s : State) : (endStep s).dig = s.dig := by rw [endStep_eq]
@[simp] theorem endStep_data (s : State) : (endStep s).data = s.data := by rw [endStep_eq]
@[simp] theorem endStep_agenda (s : State) : (endStep s).agenda = s.agenda := by rw [endStep_eq]
@[simp] theorem endStep_replies (s : State) : (endStep s).replies = s.replies := by rw [endStep_eq]

/-! ### The tests before ABSORB, ABSORBW and FINALIZE (40_host_commands.md R84) -/

variable {f : State → Host.Outcome State Fault Refusal}

theorem inContext_absorb {s : State} (h : s.phase = .absorb) : inContext s f = f s := by simp [inContext, h]

theorem inContext_error {s : State} (h : s.phase = .error) : inContext s f = .next (endStep s) := by simp [inContext, h]

theorem inContext_idle {s : State} (h : s.phase = .idle) : inContext s f = .next (endStep (raiseErr .sequence s)) := by
  simp [inContext, h]

theorem inContext_done {s : State} (h : s.phase = .done) : inContext s f = .next (endStep (raiseErr .sequence s)) := by
  simp [inContext, h]

/-- Everything the tests can do: the effect in phase ABSORB, SEQUENCE in IDLE and DONE, nothing in ERROR. -/
theorem inContext_next {s t : State} (h : inContext s f = .next t) :
    (s.phase = .absorb ∧ f s = .next t) ∨
    ((s.phase = .idle ∨ s.phase = .done) ∧ t = endStep (raiseErr .sequence s)) ∨
    (s.phase = .error ∧ t = endStep s) := by
  cases hp : s.phase with
  | absorb => exact .inl ⟨rfl, by rwa [inContext_absorb hp] at h⟩
  | idle => rw [inContext_idle hp] at h; cases h; exact .inr (.inl ⟨.inl rfl, rfl⟩)
  | done => rw [inContext_done hp] at h; cases h; exact .inr (.inl ⟨.inr rfl, rfl⟩)
  | error => rw [inContext_error hp] at h; cases h; exact .inr (.inr ⟨rfl, rfl⟩)

/-- Everything an ABSORB that answers a next state does. -/
theorem execAbsorb_next {b : Byte} {s t : State} (h : execAbsorb b s = .next t) :
    (s.phase = .absorb ∧ t = endStep (absorbByte b s)) ∨
    ((s.phase = .idle ∨ s.phase = .done) ∧ t = endStep (raiseErr .sequence s)) ∨
    (s.phase = .error ∧ t = endStep s) := by
  rcases inContext_next h with ⟨hp, hf⟩ | h | h
  · cases hf
    exact .inl ⟨hp, rfl⟩
  · exact .inr (.inl h)
  · exact .inr (.inr h)

/-- Everything an ABSORBW that answers a next state does. -/
theorem execAbsorbw_next {cnt : Nat} {s t : State} (h : execAbsorbw cnt s = .next t) :
    (s.phase = .absorb ∧ t = endStep (absorbBytes (dataBytes cnt s.pdata) s)) ∨
    ((s.phase = .idle ∨ s.phase = .done) ∧ t = endStep (raiseErr .sequence s)) ∨
    (s.phase = .error ∧ t = endStep s) := by
  rcases inContext_next h with ⟨hp, hf⟩ | h | h
  · cases hf
    exact .inl ⟨hp, rfl⟩
  · exact .inr (.inl h)
  · exact .inr (.inr h)

/-- Everything an INIT that answers a next state does. -/
theorem execInit_next {ob : BitVec 16} {s t : State} (h : execInit ob s = .next t) :
    (legalOutbits ob = true ∧ t = endStep (openContext ob s)) ∨
    (legalOutbits ob = false ∧ t = endStep (rejectConfig s)) := by
  unfold execInit at h
  cases hl : legalOutbits ob <;> simp [hl] at h <;> simp [h]

/-- Everything the engine step of an ILLEGAL value does. -/
theorem execIllegal_next {s t : State} (h : execIllegal s = .next t) :
    (s.phase = .error ∧ t = endStep s) ∨ (s.phase ≠ .error ∧ t = endStep (raiseErr .badCmd s)) := by
  unfold execIllegal at h
  by_cases hp : s.phase = .error <;> simp [hp] at h <;> simp [hp, h]

/-- Everything a FINALIZE that answers a next state does. -/
theorem execFinalize_next {s t : State} (h : execFinalize s = .next t) :
    (s.phase = .absorb ∧ ∃ acc, compress (padded s).amps = some acc ∧ t = endStep (publish acc (padded s))) ∨
    ((s.phase = .idle ∨ s.phase = .done) ∧ t = endStep (raiseErr .sequence s)) ∨
    (s.phase = .error ∧ t = endStep s) := by
  rcases inContext_next h with ⟨hp, hf⟩ | h | h
  · refine .inl ⟨hp, ?_⟩
    cases hc : compress (padded s).amps with
    | none => simp [hc] at hf
    | some acc =>
      simp only [hc] at hf
      cases hf
      exact ⟨acc, rfl, rfl⟩
  · exact .inr (.inl h)
  · exact .inr (.inr h)

/-! ### The system step (Machine/Engine.lean) -/

theorem step_of_agenda_nil {s : State} (h : s.agenda = []) : step s = engineTurn s := by
  simp [step, systemStep, h]

theorem step_of_agenda_cons {s : State} {e : Event} {rest : List Event} (h : s.agenda = e :: rest) :
    step s = runEvent e { s with agenda := rest } := by
  simp [step, systemStep, h]

/-- The next step is the engine's turn in both ways it can come to it. -/
theorem step_of_engineNext {s : State} {rest : List Event} (h : s.engineNext rest) :
    step s = engineTurn { s with agenda := rest } := by
  rcases h with h | ⟨h, rfl⟩
  · exact step_of_agenda_cons h
  · rw [step_of_agenda_nil h, ← h]

theorem engineTurn_of_idle {s : State} (h : s.busy = false) : engineTurn s = .next s := by
  simp [engineTurn, h]

theorem engineTurn_of_busy {s : State} (h : s.busy = true) : engineTurn s = engineStep s := by
  simp [engineTurn, h]

theorem engineStep_of_decode {s : State} {i : Instr} (h : decode s.pcmd = .ok i) : engineStep s = exec i s := by
  simp [engineStep, h]

theorem engineStep_of_illegal {s : State} {e : Illegal} (h : decode s.pcmd = .error e) : engineStep s = execIllegal s := by
  simp [engineStep, h]

end Sys2Proof.Machine
end

