-- ==== Sys2Proof/Laws/Ops.lean ====
section
/-! SUPPORT. What each shared operation over banks does, said once: the cell at an index, and that banks with equal cells are equal. -/

namespace Sys2Proof.Machine

variable {n : Nat} {α β γ : Type}

theorem Bank.ext_cells {a b : Bank n α} (h : a.cells = b.cells) : a = b := by
  cases a; cases b; simpa using h

theorem Bank.cell_eq_getElem [NeZero n] (b : Bank n α) (i : Nat) :
    b.cell i = b.cells[i % n]'(b.size.symm ▸ Nat.mod_lt i (NeZero.pos n)) := rfl

/-- Two banks are equal when they agree at every index below the size. -/
theorem Bank.ext_cell [NeZero n] {a b : Bank n α} (h : ∀ i, i < n → a.cell i = b.cell i) : a = b := by
  apply Bank.ext_cells
  apply List.ext_getElem (a.size.trans b.size.symm)
  intro i hi _
  have hin : i < n := a.size ▸ hi
  simpa [Bank.cell, Nat.mod_eq_of_lt hin] using h i hin

@[simp] theorem Bank.cell_mod [NeZero n] (b : Bank n α) (i : Nat) : b.cell (i % n) = b.cell i := by
  simp [Bank.cell]

@[simp] theorem Bank.cell_replicate [NeZero n] (a : α) (i : Nat) : (Bank.replicate n a).cell i = a := by
  simp [Bank.cell, Bank.replicate]

@[simp] theorem Bank.cell_map [NeZero n] (f : α → β) (b : Bank n α) (i : Nat) : (b.map f).cell i = f (b.cell i) := by
  simp [Bank.cell, Bank.map]

@[simp] theorem Bank.cell_zipWith [NeZero n] (f : α → β → γ) (a : Bank n α) (b : Bank n β) (i : Nat) :
    (Bank.zipWith f a b).cell i = f (a.cell i) (b.cell i) := by
  simp [Bank.cell, Bank.zipWith]

@[simp] theorem Bank.cell_tabulate [NeZero n] (f : Nat → α) (i : Nat) : (Bank.tabulate n f).cell i = f (i % n) := by
  simp [Bank.cell, Bank.tabulate]

@[simp] theorem Bank.cell_put [NeZero n] (b : Bank n α) (i j : Nat) (a : α) :
    (b.put i a).cell j = if i % n = j % n then a else b.cell j := by
  simp [Bank.cell, Bank.put, List.getElem_set]

/-- A rotated bank at an index (43_chaotic_state_evolver.md R115). -/
@[simp] theorem Bank.cell_rotate [NeZero n] (b : Bank n α) (s k : Nat) : (b.rotate s).cell k = b.cell (k + s) := by
  have hs := Nat.mod_lt s (NeZero.pos n)
  have hk := Nat.mod_lt k (NeZero.pos n)
  simp only [Bank.cell, Bank.rotate, List.getElem_append, List.length_drop, List.getElem_drop, List.getElem_take, b.size]
  have e : (k + s) % n = if k % n < n - s % n then s % n + k % n else k % n - (n - s % n) := by
    rw [Nat.add_mod k s n]
    generalize s % n = u at *
    generalize k % n = w at *
    split
    · rw [Nat.mod_eq_of_lt (by omega), Nat.add_comm]
    · rw [Nat.mod_eq_sub_mod (by omega), Nat.mod_eq_of_lt (by omega)]
      omega
  simp only [e]
  split <;> rfl

theorem Bank.mem_cells_iff [NeZero n] (b : Bank n α) (a : α) : a ∈ b.cells ↔ ∃ i, i < n ∧ b.cell i = a := by
  constructor
  · intro h
    obtain ⟨i, hi, rfl⟩ := List.getElem_of_mem h
    have hin : i < n := b.size ▸ hi
    exact ⟨i, hin, by simp [Bank.cell, Nat.mod_eq_of_lt hin]⟩
  · rintro ⟨i, -, rfl⟩
    exact List.getElem_mem _

@[simp] theorem cell_scaleBy (c : Real64) (v : Amps) (k : Nat) : (v.scaleBy c).cell k = (v.cell k).scale c := by
  simp [Bank.scaleBy]

@[simp] theorem cell_plus (v w : Amps) (k : Nat) : (v.plus w).cell k = (v.cell k).add (w.cell k) := by
  simp [Bank.plus]

@[simp] theorem rotl64_zero (v : Word) : rotl64 v 0 = v := by simp [rotl64]

end Sys2Proof.Machine
end

