-- ==== Sys2Proof/Laws/Frames.lean ====
section
/-! SUPPORT. What the walk's operations leave unchanged, what the padding loop reaches, and how an append moves the history. -/

namespace Sys2Proof.Machine

/-! ### Frames -/

/-- An evolution step writes `S`, `HB` and `HPTR` only (43_chaotic_state_evolver.md R121). -/
theorem evolveStep_frame (b : Byte) (i : Word) (s : State) :
    evolveStep b i s = { s with
      amps := (evolveStep b i s).amps, hb := (evolveStep b i s).hb, hptr := (evolveStep b i s).hptr } := rfl

/-- Absorbing bytes writes the walk, `SUM`, `POS` and `LONG` only (40_host_commands.md R89 to R91). -/
theorem absorbBytes_frame (bs : List Byte) : ∀ s : State,
    absorbBytes bs s = { s with
      amps := (absorbBytes bs s).amps, hb := (absorbBytes bs s).hb, hptr := (absorbBytes bs s).hptr,
      sum := (absorbBytes bs s).sum, pos := (absorbBytes bs s).pos, long := (absorbBytes bs s).long } := by
  induction bs with
  | nil => intro s; rfl
  | cons b bs ih =>
    intro s
    have h := ih (absorbByte b s)
    rw [show absorbBytes (b :: bs) s = absorbBytes bs (absorbByte b s) from rfl]
    exact h

@[simp] theorem absorbBytes_nil (s : State) : absorbBytes [] s = s := rfl

@[simp] theorem absorbBytes_cons (b : Byte) (bs : List Byte) (s : State) :
    absorbBytes (b :: bs) s = absorbBytes bs (absorbByte b s) := rfl

/-- The padding loop writes the walk, `POS` and `LONG` only (41_preprocessor.md R104). -/
theorem padLoop_frame (n : Nat) : ∀ (seed : Word) (s : State),
    padLoop n seed s = { s with
      amps := (padLoop n seed s).amps, hb := (padLoop n seed s).hb, hptr := (padLoop n seed s).hptr,
      pos := (padLoop n seed s).pos, long := (padLoop n seed s).long } := by
  induction n with
  | zero => intro seed s; rfl
  | succ n ih =>
    intro seed s
    cases hl : s.long with
    | true => simp only [padLoop, hl, if_true]
              cases s; simp_all
    | false =>
      have h := ih (lcg seed) (padOnce (lcg seed) s)
      rw [show padLoop (n + 1) seed s = padLoop n (lcg seed) (padOnce (lcg seed) s) by simp [padLoop, hl]]
      exact h

/-- What FINALIZE compresses differs from the state before only in the walk, `POS` and `LONG` (40_host_commands.md R92). -/
theorem padded_frame (s : State) :
    padded s = { s with
      amps := (padded s).amps, hb := (padded s).hb, hptr := (padded s).hptr,
      pos := (padded s).pos, long := (padded s).long } := by
  cases hl : s.long with
  | true => rw [show padded s = s by simp [padded, hl]]
  | false =>
    rw [show padded s = padLoop (padCount s.pos) (padSeed s) s by simp [padded, padTail, hl]]
    exact padLoop_frame _ _ _

theorem padded_of_long {s : State} (h : s.long = true) : padded s = s := by simp [padded, h]

theorem padded_of_short {s : State} (h : s.long = false) : padded s = padTail s := by simp [padded, h]

/-! ### The history ring (10_state.md R27) -/

/-- After an append the logical snapshots have moved one place down and the new one is the newest. -/
theorem hist_appendHist (s : State) (t : Amps) (j : Nat) (hj : j < 4) :
    (s.appendHist t).hist j = if j = 3 then t else s.hist (j + 1) := by
  have hp : s.hptr.toNat < 4 := s.hptr.isLt
  have e : (s.hptr + 1).toNat = (s.hptr.toNat + 1) % 4 := by simp [BitVec.toNat_add]
  simp only [State.hist, appendHist_hb, appendHist_hptr, Bank.cell_put, Config.hd, e]
  split
  · rename_i h
    rw [if_pos (by omega)]
  · rename_i h
    rw [if_neg (by omega), ← Bank.cell_mod s.hb ((s.hptr.toNat + 1) % 4 + j), ← Bank.cell_mod s.hb (s.hptr.toNat + (j + 1))]
    have : ((s.hptr.toNat + 1) % 4 + j) % 4 = (s.hptr.toNat + (j + 1)) % 4 := by omega
    simp only [Config.hd, this]

/-- `InitState` makes every snapshot the initial vector (43_chaotic_state_evolver.md R114). -/
@[simp] theorem hist_initState (s : State) (j : Nat) : (initState s).hist j = initialAmps := by
  simp [State.hist]

/-! ### The window's addresses (20_memory.md R45) -/

theorem windowOffset_inside {off : Nat} (h : off < 128) :
    windowOffset (Config.cheBase + off) = some (BitVec.ofNat 7 off) := by
  have : Config.cheBase ≤ Config.cheBase + off ∧ Config.cheBase + off < Config.cheBase + 128 := by omega
  simp [windowOffset, this]

theorem windowOffset_outside {addr : Nat} (h : addr < Config.cheBase ∨ Config.cheBase + 128 ≤ addr) :
    windowOffset addr = none := by
  have : ¬ (Config.cheBase ≤ addr ∧ addr < Config.cheBase + 128) := by omega
  simp [windowOffset, this]

theorem memRead_admitted {off : BitVec 7} {width : Nat} (h : admitted off width = true) (s : State) :
    memRead off width s = .ok (regValue (regAt off) s) := by simp [memRead, h]

theorem memRead_refused {off : BitVec 7} {width : Nat} (h : admitted off width = false) (s : State) :
    memRead off width s = .error .busError := by simp [memRead, h]

theorem memWrite_admitted {off : BitVec 7} {width : Nat} (h : admitted off width = true) (v : Word) (s : State) :
    memWrite off width v s = .ok (writeReg (regAt off) v s) := by simp [memWrite, h]

theorem memWrite_refused {off : BitVec 7} {width : Nat} (h : admitted off width = false) (v : Word) (s : State) :
    memWrite off width v s = .error .busError := by simp [memWrite, h]

end Sys2Proof.Machine
end

