-- ==== Sys2Proof/Laws/PerInstr.lean ====
section
/-! SUPPORT. The family HighHalfZero, one lemma per constructor: the encoding of a command has bits 63:32 clear (30_encoding.md R65). -/

namespace Sys2Proof.Laws.HighHalfZero

/-- "In every defined command, bits `v[63:32]` are reserved and must be 0" (30_encoding.md R65). -/
def Statement (i : Instr) : Prop := i.wellFormed = true → (encode i).extractLsb' 32 32 = 0#32

theorem nop : Statement .nop := by
  intro _; decide

theorem init (outbits : BitVec 16) : Statement (.init outbits) := by
  intro _
  ext k hk
  have high : 16 ≤ 32 + k - 16 := by omega
  simp [encode, BitVec.getLsbD_of_ge _ _ high]

theorem absorb (b : Byte) : Statement (.absorb b) := by
  intro _
  ext k hk
  have high : 8 ≤ 32 + k - 8 := by omega
  simp [encode, BitVec.getLsbD_of_ge _ _ high]
  exact BitVec.getLsbD_of_ge (2#2) (32 + k) (by omega)

theorem absorbw (cnt : Nat) : Statement (.absorbw cnt) := by
  intro h
  simp [Instr.wellFormed] at h
  obtain ⟨h1, h8⟩ := h
  interval_cases cnt <;> decide

theorem finalize : Statement .finalize := by
  intro _; decide

end Sys2Proof.Laws.HighHalfZero
end

