-- ==== Sys2Proof/Tests/Slice0.lean ====
section
/-! SUPPORT. Tests: ill-formed terms refused, words written out from the spec's encodings, single operations and single steps against
values that the spec prints, and for every statement with hypotheses a concrete case that meets them (`test_hyps_<statement>`).
Expected values come from 30_encoding.md R79, 95_test_vectors.md and the rules named. -/

open Sys2Proof Sys2Proof.Machine

namespace Sys2Proof.Tests

/-! ### WellFormed: each check with a term it refuses (30_encoding.md R70, R76) -/

theorem test_wellFormed_refuses_count_zero : (Instr.absorbw 0).wellFormed = false := by decide
theorem test_wellFormed_refuses_count_nine : (Instr.absorbw 9).wellFormed = false := by decide

/-! ### Decoding: words written out bit by bit from 30_encoding.md R66 to R69 -/

/-- Format N, OPC 0x00. -/
theorem test_decode_nop : decode (0#56 ++ 0b00000000#8 : BitVec 64) = .ok .nop := by decide

/-- Format C: reserved 63:32, OUTBITS 31:16 = 256, reserved 15:8, OPC 0x01. -/
theorem test_decode_init :
    decode (0#32 ++ 0b0000000100000000#16 ++ 0#8 ++ 0b00000001#8 : BitVec 64) = .ok (.init 256) := by decide

/-- Format B: reserved 63:16, BYTE 15:8 = 0x61, OPC 0x02. -/
theorem test_decode_absorb : decode (0#48 ++ 0b01100001#8 ++ 0b00000010#8 : BitVec 64) = .ok (.absorb 0x61) := by decide

/-- Format W: reserved 63:11, CNTM1 10:8 = 6, OPC 0x03. -/
theorem test_decode_absorbw : decode (0#53 ++ 0b110#3 ++ 0b00000011#8 : BitVec 64) = .ok (.absorbw 7) := by decide

/-- Format N, OPC 0x04. -/
theorem test_decode_finalize : decode (0#56 ++ 0b00000100#8 : BitVec 64) = .ok .finalize := by decide

/-- V-EN2, V-EN6, V-EN7, V-EN10: one reserved bit set in each format. -/
theorem test_decode_reserved_bits :
    decode 0x100 = .error .reservedBit ∧ decode 0x400201 = .error .reservedBit ∧ decode 0x101000001 = .error .reservedBit ∧
    decode 0x16102 = .error .reservedBit ∧ decode 0x803 = .error .reservedBit ∧ decode 0x104 = .error .reservedBit := by decide

/-- V-EN3, V-EN4, V-EN8, V-EN9, V-EN11: the ends of each operand field. -/
theorem test_decode_field_ends :
    decode 0x1 = .ok (.init 0) ∧ decode 0xFFFF0001 = .ok (.init 65535) ∧ decode 0x2 = .ok (.absorb 0) ∧
    decode 0xFF02 = .ok (.absorb 0xFF) ∧ decode 0x3 = .ok (.absorbw 1) := by decide

/-- The table's numbering: the low `nbits` bits of the number, and no longer command than 64 bits. -/
theorem test_decodeTableWord :
    decodeTableWord 64 0x703 = some (.absorbw 8) ∧ decodeTableWord 8 0x04 = some .finalize ∧ decodeTableWord 64 5 = none ∧
    decodeTableWord 72 0 = none := by decide

/-- 30_encoding.md R78 and R79. -/
theorem test_disassemble :
    disassemble 0x0000000002000001 = "init 512" ∧ disassemble 0x16102 = ".illegal 0x0000000000016102" := by decide +kernel

/-! ### States for the tests -/

/-- The bank of eight words with these values. -/
def words (f : Nat → Word) : Bank Config.aw Word := Bank.tabulate _ f

/-- A pending command in a state with nothing on the agenda. -/
def pending (i : Instr) (s : State) : State := { s with busy := true, pcmd := encode i, agenda := [] }

/-- An open context of 64 bits at position 0, with a walk of zeros, so that a kernel steps it quickly. No run reaches it. -/
def openZero : State := { State.reset with phase := .absorb, outbits := 64, ow := 1 }

/-- The open context of a legal INIT (43_chaotic_state_evolver.md R114). -/
def opened : State := { initState State.reset with phase := .absorb, outbits := 64, ow := 1 }

/-- An open context past its 64th byte. -/
def openLong : State := { openZero with pos := 64, long := true }

/-- A finished context with one output word. -/
def finished : State :=
  { openLong with phase := .done, dig := words fun k => if k = 0 then 0x272A6EFEFF838389 else 0 }

/-- A recorded SEQUENCE error. -/
def failed : State := { State.reset with phase := .error, errcode := .sequence }

/-! ### Words and registers -/

/-- 00_scope.md R11, at the ends of the range. -/
theorem test_rotl64 :
    rotl64 0x8000000000000001 0 = 0x8000000000000001 ∧ rotl64 0x8000000000000001 1 = 3 ∧
    rotl64 0x8000000000000001 63 = 0xC000000000000000 := by decide

/-- 20_memory.md R53: lane 0 is the least significant; 40_host_commands.md R90's example, "Astryx1". -/
theorem test_dataBytes : dataBytes 7 0x0031787972747341 = [0x41, 0x73, 0x74, 0x72, 0x79, 0x78, 0x31] := by decide

/-- 30_encoding.md R77: `load8` puts the first byte in lane 0 (program P3). -/
theorem test_load8 : load8 [0x41, 0x73, 0x74, 0x72, 0x79, 0x78, 0x31] = 0x0031787972747341 := by decide

/-- The register map of 20_memory.md R46 on a finished context: `CMD`, `STATUS` 0xC, `CONFIG` 0x10040, `LEN` 64, and the reserved
offset. -/
theorem test_register_map :
    memRead 0x00 8 finished = .ok 0 ∧ memRead 0x10 8 finished = .ok 0xC ∧ memRead 0x20 8 finished = .ok 0x10040 ∧
    memRead 0x28 8 finished = .ok 64 ∧ memRead 0x30 8 finished = .ok 0 := by decide

/-- The output words are gated by the phase (20_memory.md R64). -/
theorem test_digest_gate :
    memRead 0x40 8 finished = .ok 0x272A6EFEFF838389 ∧ memRead 0x40 8 { finished with phase := .error } = .ok 0 ∧
    memRead 0x78 8 finished = .ok 0 := by decide

/-- 46_output_squeezer.md R146: the most significant nibble comes first. -/
theorem test_hex16 : hex16 0x272A6EFEFF838389 = "272a6efeff838389" := by decide +kernel

/-! ### Binary64: the values of 95_test_vectors.md -/

/-- 00_scope.md R7's encodings are those of the decimal literals, rounded to nearest: 3.99, 0.6 and 0.15 as quotients. -/
theorem test_decimal_literals :
    fdiv (floatOfNat 399) (floatOfNat 100) = logiR ∧ fdiv (floatOfNat 6) (floatOfNat 10) = blendNew ∧
    fdiv (floatOfNat 15) (floatOfNat 100) = blendMid ∧ floatOfNat 4294967295 = qScale := by decide +kernel

/-- V-NM9: the square root of 25 is 5, and 3/5 rounds to 0.6. -/
theorem test_sqrt_exact : fsqrt (floatOfNat 25) = floatOfNat 5 ∧ fdiv (floatOfNat 3) (floatOfNat 5) = blendNew := by
  decide +kernel

/-- V-NM11: the square of 1e-160 is subnormal and kept, and its root shows its rounding. -/
theorem test_subnormal_norm : fsqrt (fmul 0x1EB67E9C127B6E74 0x1EB67E9C127B6E74) = 0x1EB67E93DDBC0E73 := by decide +kernel

/-- V-NM7: the square of 1e-300 underflows to zero. -/
theorem test_underflow : fmul degenEps degenEps = 0#64 := by decide +kernel

/-- 45_amplitude_compressor.md R141: the uniform amplitude quantises to 8388607, not to 2^23 (V-CP2). -/
theorem test_quantize_uniform : quantize ⟨0x3FA6A09E667F3BCC, 0⟩ = some 8388607 := by decide +kernel

/-- V-CP1's quantised value of 1.0. -/
theorem test_quantize_one : quantize ⟨one, 0⟩ = some 0xFFFFFFFF := by decide +kernel

/-- 45_amplitude_compressor.md R139: an infinite product has no value. -/
theorem test_quantize_infinite : quantize ⟨infinity false, 0⟩ = none := by decide +kernel

/-! ### The sub-blocks -/

/-- V-HP1, V-HP2, V-HP3, V-HP4. -/
theorem test_hop :
    hop 4 0 = 201 ∧ hop 4 256 = 201 ∧ hop 255 0 = 0 ∧ hop 112 0 = 129 := by decide +kernel

/-- 41_preprocessor.md R105: the first padding bytes of the empty message, and of the one-byte message 0x00. -/
theorem test_padBytes :
    padBytes 3 padEmptySeed = [4, 181, 210] ∧ padBytes 4 0 = [1, 46, 23, 12] ∧ lcg padEmptySeed = 0x92C2FA716B5E2104 := by
  decide

/-- 43_chaotic_state_evolver.md R124: the blend of the empty message's first step is 0.3 at 183 and 329 and 0.4 at 256. -/
theorem test_blend :
    (blend (combine initialAmps 73) initialAmps initialAmps).cell 183 = ⟨0x3FD3333333333333, 0⟩ ∧
    (blend (combine initialAmps 73) initialAmps initialAmps).cell 329 = ⟨0x3FD3333333333333, 0⟩ ∧
    (blend (combine initialAmps 73) initialAmps initialAmps).cell 256 = ⟨0x3FD999999999999A, 0⟩ := by decide +kernel

/-- The direction of the shifts (43_chaotic_state_evolver.md R115): left by `s` brings element `k + s` to `k`. -/
theorem test_shift_direction : (lsh initialAmps 1).cell 255 = ⟨one, 0⟩ ∧ (rsh initialAmps 1).cell 257 = ⟨one, 0⟩ := by
  decide +kernel

/-- V-SQ2: the words of the accumulator (1, 0, ..., 0). -/
theorem test_squeeze :
    squeezeWord (words fun k => if k = 0 then 1 else 0) 0 = 0xb4e018632be59bd9 ∧
    squeezeWord (words fun k => if k = 0 then 1 else 0) 7 = 0xb4e019632be59bd9 := by decide +kernel

/-- V-NM2: a zero vector takes the newest snapshot. -/
theorem test_fallback : (stabilize initialAmps (Bank.replicate _ Cplx.zero)).cell 256 = ⟨one, 0⟩ := by decide +kernel

/-! ### One step of each command -/

/-- V-HC13. -/
theorem test_nop_done : exec .nop { finished with busy := true } = .next finished := by rfl

/-- V-HC24. -/
theorem test_nop_error_overrun : exec .nop { failed with busy := true, ovr := true } = .next failed := by rfl

/-- V-HC2: `CONFIG` is 0x40100 and `STATUS` 0x2, then with the reset state's open phase. -/
theorem test_init_legal :
    (match exec (.init 256) State.reset with
      | .next t => (configWord t, statusWord t, t.pos)
      | _ => (0, 0, 0)) = (0x40100, 0x2, 0) := by decide +kernel

/-- V-HC3, V-HC19: an illegal length replaces the code. -/
theorem test_init_illegal :
    exec (.init 0) failed = .next { failed with errcode := .cfgInvalid } ∧
    exec (.init 576) State.reset = .next { failed with errcode := .cfgInvalid } := ⟨rfl, rfl⟩

/-- V-HC6. -/
theorem test_absorb_idle : exec (.absorb 0x61) State.reset = .next failed := by rfl

/-- V-EV1: the first step of the empty message absorbed as a message byte. The newest snapshot keeps the value from before the
renormalisation, and the state takes the other. -/
theorem test_absorb_first_step :
    (match exec (.absorb 4) opened with
      | .next t => ((t.hist 3).cell 256, t.amps.cell 256, t.amps.cell 183, t.pos, t.sum)
      | _ => (Cplx.zero, Cplx.zero, Cplx.zero, 0, 0)) =
      (⟨0x3FE1C01AA03BE896, 0⟩, ⟨0x3FE1C01AA03BE897, 0⟩, ⟨0x3FDAA027F059DCE1, 0⟩, 1, 4) := by decide +kernel

/-- Program P6: the eighth `absorbw 8` reaches position 64 and sets `LONG`. -/
theorem test_absorbw_sets_long :
    (match exec (.absorbw 8) { openZero with pos := 56, sum := 1540, pdata := 0x3F3E3D3C3B3A3938 } with
      | .next t => (statusWord t, t.pos, t.sum)
      | _ => (0, 0, 0)) = (0xA, 64, 2016) := by decide +kernel

/-- V-HC17. -/
theorem test_absorbw_error : exec (.absorbw 3) failed = .next failed := by rfl

/-- V-HC7, V-HC14. -/
theorem test_finalize_sequence :
    exec .finalize State.reset = .next failed ∧
    exec .finalize finished = .next { finished with phase := .error, errcode := .sequence } := ⟨rfl, rfl⟩

/-- V-CP3, V-SQ6: a walk of zeros compressed and squeezed, one word of output. -/
theorem test_finalize_zero_walk :
    (match exec .finalize openLong with
      | .next t => (t.acc.cell 0, t.acc.cell 7, t.dig.cell 0, t.dig.cell 1, statusWord t)
      | _ => (0, 0, 0, 0, 0)) = (0xd721fedd12448661, 0x5b15f0ec2f577022, 0x3f1edb4d0f374745, 0, 0xC) := by decide +kernel

/-- A command placed by the host's interface runs as the first instruction after reset. -/
theorem test_withFetchWord : step (State.reset.withFetchWord 64 0x6102) = .next { failed with pcmd := 0x6102 } := by rfl

/-! ### For each statement with hypotheses, a case that meets them -/

/-- A walk whose every amplitude is 1/sqrt(512) (V-CP2), which is tame. -/
def uniform : Amps := Bank.replicate _ ⟨0x3FA6A09E667F3BCC, 0⟩

/-- An open context over that walk. -/
def openUniform : State := { openLong with amps := uniform, hb := Bank.replicate _ uniform }

theorem test_hyps_EncodeThenDecode : (Instr.absorbw 1).wellFormed = true ∧ (Instr.absorbw 8).wellFormed = true := by decide

theorem test_hyps_DecodeThenEncode : decode 0x703 = .ok (.absorbw 8) ∧ decode 0x3 = .ok (.absorbw 1) := by decide

/-- The first and the last offset of the window (20_memory.md R46). -/
theorem test_hyps_ReadShowsRegisterMap : (0 < 16 ∧ regAt (BitVec.ofNat 7 0) = .cmd) ∧ (15 < 16 ∧ regAt 0x78 = .digest 7) := by decide

/-- The control state's bookkeeping of the finished context. -/
theorem finished_coherent : finished.Coherent where
  errcode_iff := by decide
  outbits_legal := .inr (by decide)
  ow_eq := by decide
  context_legal := fun _ => by decide
  ovr_pending := by decide
  short_pos := by decide
  short_sum := by decide
  done_long := fun _ => rfl
  done_words := fun _ k h1 h8 => by
    have h1' : 1 ≤ k := h1
    interval_cases k <;> rfl
  absorb_acc := by decide

theorem test_hyps_DigestReadIsGated :
    finished.Coherent ∧ finished.phase = .done ∧ finished.ow.toNat ≤ 1 ∧ finished.ow.toNat ≤ 7 ∧ 0 < 8 ∧ 7 < 8 :=
  ⟨finished_coherent, by decide⟩

theorem test_hyps_WindowIsLittleEndian : 0 < 16 ∧ 15 < 16 := by decide

theorem test_hyps_BusErrorChangesNothing :
    (0x10 < 128 ∧ (4 ≠ 8 ∨ 0x10 % 8 ≠ 0)) ∧ (4 < 128 ∧ (8 ≠ 8 ∨ 4 % 8 ≠ 0)) ∧ (127 < 128 ∧ (8 ≠ 8 ∨ 127 % 8 ≠ 0)) := by decide

/-- Both reserved offsets, and the first address past the window. -/
theorem test_hyps_ReservedAndOutsideOffsets :
    (0x30 = 0x30 ∨ 0x30 = 0x38) ∧ (0x38 = 0x30 ∨ 0x38 = 0x38) ∧
    (Config.cheBase + 0x80 < Config.cheBase ∨ Config.cheBase + 0x80 ≤ Config.cheBase + 0x80) :=
  ⟨.inl rfl, .inr rfl, .inr (Nat.le_refl _)⟩

theorem test_hyps_WriteEffectsByOffset : (0 < 16 ∧ regAt 0x00 = .cmd) ∧ (1 < 16 ∧ regAt 0x08 = .data) ∧ 15 < 16 := by decide

theorem test_hyps_StepRunsDecodedCommand :
    (pending (.absorbw 8) openZero).busy = true ∧ decode (pending (.absorbw 8) openZero).pcmd = .ok (.absorbw 8) ∧
    (pending (.absorbw 8) openZero).agenda = [] ∧
    { pending (.absorbw 8) openZero with agenda := [.engine, .wait] }.agenda = .engine :: [.wait] := by decide

theorem test_hyps_IdleEngineKeepsState :
    openZero.busy = false ∧ openZero.agenda = [] ∧ { openZero with agenda := [.engine] }.agenda = .engine :: [] := by decide

/-- A write to a pending command and to a pending ILLEGAL value, and an overrun latched before. -/
theorem test_hyps_OverrunWriteIsDiscarded :
    ((pending .nop openZero).busy = true ∧ ([5, 0] : List Word) ≠ []) ∧
    ({ pending .nop openZero with pcmd := 5 }.busy = true ∧ decode 5 = .error .unknownOpcode) ∧
    ({ pending .nop openZero with ovr := true }.busy = true ∧
      (([] : List Word) ≠ [] ∨ { pending .nop openZero with ovr := true }.ovr = true)) := by decide

theorem test_hyps_OverrunResolvedAfterEffect :
    ({ openZero with ovr := true }.ovr = true ∧ exec .nop { openZero with ovr := false } = .next openZero) ∧
    ({ failed with ovr := true }.ovr = true ∧ legalOutbits 64 = true ∧ legalOutbits 512 = true) :=
  ⟨⟨rfl, rfl⟩, rfl, by decide, by decide⟩

/-- Legal lengths at both ends, and illegal ones beside them. -/
theorem test_hyps_InitResult :
    failed.ovr = false ∧ ((64#16).toNat % 64 = 0 ∧ 64 ≤ (64#16).toNat ∧ (64#16).toNat ≤ 512) ∧
    ((512#16).toNat % 64 = 0 ∧ 64 ≤ (512#16).toNat ∧ (512#16).toNat ≤ 512) ∧
    ¬ ((0#16).toNat % 64 = 0 ∧ 64 ≤ (0#16).toNat ∧ (0#16).toNat ≤ 512) ∧
    ¬ ((576#16).toNat % 64 = 0 ∧ 64 ≤ (576#16).toNat ∧ (576#16).toNat ≤ 512) ∧
    ¬ ((65#16).toNat % 64 = 0 ∧ 64 ≤ (65#16).toNat ∧ (65#16).toNat ≤ 512) := by decide

/-- Before the 64th byte and at it. -/
theorem test_hyps_AbsorbResult :
    (openZero.phase = .absorb ∧ openZero.ovr = false) ∧
    ({ openZero with pos := 63 }.phase = .absorb ∧ { openZero with pos := 63 }.ovr = false) := by decide

theorem test_hyps_AbsorbwIsAbsorbs :
    1 ≤ 1 ∧ 1 ≤ 8 ∧ 8 ≤ 8 ∧ openZero.phase = .absorb ∧ openZero.ovr = false := by decide

theorem test_hyps_OutsideContextIsSequenceError :
    ((∃ b, Instr.absorb 5 = .absorb b) ∨ (∃ cnt, Instr.absorb 5 = .absorbw cnt) ∨ Instr.absorb 5 = .finalize) ∧
    ((∃ b, Instr.absorbw 5 = .absorb b) ∨ (∃ cnt, Instr.absorbw 5 = .absorbw cnt) ∨ Instr.absorbw 5 = .finalize) ∧
    (State.reset.phase = .idle ∨ State.reset.phase = .done) ∧ (finished.phase = .idle ∨ finished.phase = .done) ∧
    failed.phase = .error :=
  ⟨.inl ⟨5, rfl⟩, .inr (.inl ⟨5, rfl⟩), .inl rfl, .inr rfl, rfl⟩

/-- Ignored with the agenda empty and with the engine's turn on it, an ILLEGAL value too; a legal INIT without and with an overrun; an
illegal INIT. -/
theorem test_hyps_ErrorPhaseIgnoresAllButInit :
    ((pending .finalize failed).phase = .error ∧ (pending .finalize failed).busy = true ∧
      (pending .finalize failed).engineNext [] ∧ ∀ ob, decode (pending .finalize failed).pcmd ≠ .ok (.init ob)) ∧
    ({ pending .nop failed with pcmd := 5, agenda := [.engine, .wait] }.engineNext [.wait] ∧ ∀ ob, decode 5 ≠ .ok (.init ob)) ∧
    (decode (pending (.init 64) failed).pcmd = .ok (.init 64) ∧ legalOutbits 64 = true ∧ (pending (.init 64) failed).ovr = false ∧
      { pending (.init 64) failed with ovr := true }.ovr = true) ∧
    (decode (pending (.init 0) failed).pcmd = .ok (.init 0) ∧ legalOutbits 0 = false) := by
  refine ⟨⟨rfl, rfl, .inr ⟨rfl, rfl⟩, fun ob h => ?_⟩, ⟨.inl rfl, fun ob h => ?_⟩, by decide, by decide⟩
  · rw [show decode (pending .finalize failed).pcmd = .ok .finalize by decide] at h
    cases h
  · rw [show decode 5 = .error .unknownOpcode by decide] at h
    cases h

theorem test_hyps_IllegalRaisesBadCmd :
    ({ pending .nop openZero with pcmd := 5 }.busy = true ∧ { pending .nop openZero with pcmd := 5 }.engineNext [] ∧
      decode { pending .nop openZero with pcmd := 5 }.pcmd = .error .unknownOpcode ∧
      { pending .nop openZero with pcmd := 5 }.phase ≠ .error) ∧
    ({ pending .nop failed with pcmd := 0x16102, agenda := [.engine, .wait] }.engineNext [.wait] ∧
      decode { pending .nop failed with pcmd := 0x16102 }.pcmd = .error .reservedBit ∧
      { pending .nop failed with pcmd := 0x16102 }.phase = .error) :=
  ⟨⟨rfl, .inr ⟨rfl, rfl⟩, by decide⟩, .inl rfl, by decide⟩

theorem test_hyps_ErrorsArePrecise :
    State.reset.ovr = false ∧ State.reset.phase ≠ .error ∧ exec (.absorb 0x61) State.reset = .next failed ∧ failed.phase = .error :=
  ⟨rfl, by decide, rfl, rfl⟩

/-- By a legal INIT and by reset. -/
theorem test_hyps_OnlyInitOrResetLeavesError :
    (failed.phase = .error ∧
      ∃ t, step (pending (.init 64) failed) = .next t ∧ (pending (.init 64) failed).phase = .error ∧ t.phase ≠ .error) ∧
    (∃ t, step { failed with agenda := [.reset] } = .next t ∧ t.phase ≠ .error) :=
  ⟨⟨rfl, endStep (openContext 64 (pending (.init 64) failed)), rfl, rfl, by decide +kernel⟩, _, rfl, by decide⟩

/-- By reset and by a FINALIZE over a walk of zeros, whose first word V-SQ6 gives. -/
theorem test_hyps_OnlyFinalizeWritesDigest :
    (∃ t, step { finished with agenda := [.reset] } = .next t ∧ t.dig ≠ finished.dig) ∧
    (match step (pending .finalize openLong) with
      | .next t => decide (t.dig ≠ openLong.dig)
      | _ => false) = true :=
  ⟨⟨_, rfl, by decide⟩, by decide +kernel⟩

theorem test_hyps_OnlyHostWritesData :
    (∃ t, step { openZero with agenda := [.write (Config.cheBase + 8) 8 1] } = .next t ∧ t.data ≠ openZero.data) ∧
    (∃ t, step { openZero with data := 1, agenda := [.reset] } = .next t ∧ t.data ≠ 1) := by
  refine ⟨⟨_, rfl, ?_⟩, _, rfl, by decide⟩
  rw [show hostWrite (Config.cheBase + 8) 8 1 { openZero with agenda := [] } =
    record .written { openZero with agenda := [], data := 1 } by
      simp [hostWrite, windowOffset_inside (show 8 < 128 by decide), memWrite, admitted, regAt, writeReg]]
  decide

theorem test_hyps_CommandFrame : exec (.init 64) openZero = .next (endStep (openContext 64 openZero)) := rfl

theorem test_hyps_WaitEndsAfterPendingStep :
    { pending .nop openZero with agenda := [.wait] }.busy = true ∧
    engineStep { pending .nop openZero with agenda := [.wait], replies := [.value (statusWord (pending .nop openZero))] } =
      .next { openZero with agenda := [.wait], replies := [.value (statusWord (pending .nop openZero))] } := ⟨rfl, rfl⟩

theorem test_hyps_HopReadsPositionModulo256 :
    (0 : Word).toNat % 256 = (256 : Word).toNat % 256 ∧ (255 : Word).toNat % 256 = (0xFFFFFFFFFFFFFFFF : Word).toNat % 256 := by decide

theorem test_hyps_HopIsTheTable : (1 : Byte) ≠ 0 ∧ (255 : Byte) ≠ 0 := by decide

/-- Both ends of the vector (the statements CombineElementwise, BlendElementwise and StabilizeBranches range over it). -/
theorem test_hyps_CombineElementwise : 0 < 512 ∧ 511 < 512 := by decide
theorem test_hyps_BlendElementwise : 0 < 512 ∧ 511 < 512 := by decide

theorem test_hyps_RenormElementwise : 0 < 512 ∧ 511 < 512 := by decide

/-- The initial vector is kept, and the zero vector is degenerate (V-NM2). -/
theorem test_hyps_StabilizeBranches :
    (isFinite (vecNorm initialAmps) = true ∧ flt 0x01A56E1FC2F8F359 (vecNorm initialAmps) = true) ∧
    ¬ (isFinite (vecNorm (Bank.replicate _ Cplx.zero)) = true ∧
      flt 0x01A56E1FC2F8F359 (vecNorm (Bank.replicate _ Cplx.zero)) = true) ∧ 511 < 512 := by decide +kernel

/-- Positions with and without the periodic renormalisation. -/
theorem test_hyps_EvolutionStepResult : (8 : Word).toNat % 8 = 0 ∧ (9 : Word).toNat % 8 ≠ 0 := by decide

/-- A tie: 2^53 + 1 units lie halfway between two binary64 numbers. The last value below the overflow, and the first at it, which is a
tie with an odd neighbour below. Operands of either sign, equal and not. -/
theorem test_hyps_RoundingIsNearestEven :
    (0 < 1 ∧ 2 ^ 53 + 1 < (2 ^ 54 - 1) * 2 ^ 2044 * 1 ∧ roundUnits (2 ^ 53 + 1) 1 + 1 < 2047 * 2 ^ 52 ∧
      datumOf (packFields false (roundUnits (2 ^ 53 + 1) 1)) = .fin false (2 ^ 53) ∧
      datumOf (packFields false (roundUnits (2 ^ 53 + 1) 1 + 1)) = .fin false (2 ^ 53 + 2)) ∧
    (roundSigned false ((2 ^ 54 - 1) * 2 ^ 2044 - 1) 1 = 0x7FEFFFFFFFFFFFFF ∧
      roundSigned true ((2 ^ 54 - 1) * 2 ^ 2044) 1 = infinity true) ∧
    (datumOf 3#64 = .fin false 3 ∧ datumOf 2#64 = .fin false 2 ∧ datumOf 0x8000000000000002 = .fin true 2 ∧
      datumOf 0x8000000000000003 = .fin true 3) := by decide +kernel

/-- The square root of 25 beside zero; the least and the greatest positive number; both zeros; an infinity; a negative number. -/
theorem test_hyps_SquareRootIsCorrectlyRounded :
    (datumOf (floatOfNat 25) = .fin false (25 * 2 ^ 1074) ∧ 0 < 25 * 2 ^ 1074 ∧ datumOf 0#64 = .fin false 0 ∧
      0#64 ≠ fsqrt (floatOfNat 25)) ∧
    (datumOf 1#64 = .fin false 1 ∧ datumOf 0x7FEFFFFFFFFFFFFF = .fin false ((2 ^ 53 - 1) * 2 ^ 2045)) ∧
    (datumOf 0x8000000000000000 = .fin true 0 ∧ datumOf (infinity false) = .inf false ∧ datumOf (infinity true) = .inf true ∧
      0 < 1 ∧ datumOf 0x8000000000000001 = .fin true 1) := by decide +kernel

/-- A uniform walk is tame. -/
theorem openUniform_tame : openUniform.Tame := by
  have hz : Cplx.tame ⟨0x3FA6A09E667F3BCC, 0⟩ := ⟨rfl, by decide⟩
  have hu : Bank.tame uniform := fun z h => (List.eq_of_mem_replicate h) ▸ hz
  exact ⟨hu, fun v h => (List.eq_of_mem_replicate h) ▸ hu⟩

theorem test_hyps_TameKeptByEveryStep :
    openUniform.Tame ∧ step { openUniform with agenda := [.engine] } = .next openUniform := ⟨openUniform_tame, rfl⟩

/-- Past the 64th byte, and before it (padding runs). -/
theorem test_hyps_TameFinalizeCompletes :
    (openUniform.Tame ∧ openUniform.phase = .absorb ∧ openUniform.ovr = false) ∧
    { openUniform with long := false, pos := 3 }.Tame := ⟨⟨openUniform_tame, rfl, rfl⟩, openUniform_tame⟩

/-- The longest and the shortest padding. -/
theorem test_hyps_PadTailResult :
    (openZero.long = false ∧ openZero.pos.toNat < 64) ∧
    ({ openZero with pos := 63 }.long = false ∧ { openZero with pos := 63 }.pos.toNat < 64) := by decide

theorem test_hyps_PaddingReadsSeedModulo256 : (0xEF : Word).toNat % 256 = padEmptySeed.toNat % 256 := by decide

theorem test_hyps_PadExtendsToMinimum :
    0 < [0x61#8].length ∧ 64 ≤ (List.replicate 64 0x41#8).length := by decide

/-- The vector whose one non-zero amplitude is 1.0 (V-CP1). -/
theorem test_hyps_CompressSlotBySlot :
    (∃ acc, compress initialAmps = some acc) ∧ 0 < 8 ∧ 7 < 8 := by
  have h : (compress initialAmps).isSome = true := by decide +kernel
  exact ⟨Option.isSome_iff_exists.1 h, by decide⟩

theorem test_hyps_SqueezeStructure : 0 ≤ 8 ∧ 8 ≤ 8 ∧ ∀ k, k < 8 → (words fun _ => 0).cell k = 0 := by decide

/-- A vector of zeros has a value for every product. -/
theorem zeros_quantizable : Bank.quantizable (Bank.replicate _ Cplx.zero) := by
  intro z h
  rw [List.eq_of_mem_replicate h]
  decide +kernel

/-- Past the 64th byte, and with one byte of padding over a walk of zeros. -/
theorem test_hyps_FinalizeResult :
    (openLong.phase = .absorb ∧ openLong.ovr = false ∧ (if openLong.long then openLong else padTail openLong).amps.quantizable) ∧
    ({ openZero with pos := 63 }.phase = .absorb ∧
      (if { openZero with pos := 63 }.long then { openZero with pos := 63 }
        else padTail { openZero with pos := 63 }).amps.quantizable) := by
  refine ⟨⟨rfl, rfl, zeros_quantizable⟩, rfl, ?_⟩
  have h : (padTail { openZero with pos := 63 }).amps = Bank.replicate _ Cplx.zero :=  by decide +kernel
  rw [if_neg (by decide), h]
  exact zeros_quantizable

/-- Both sides: a vector of zeros, and one whose amplitudes are infinite. -/
theorem test_hyps_FinalizeFaultsExactlyOutOfRange :
    openLong.phase = .absorb ∧ openLong.amps.quantizable ∧
    { openLong with amps := Bank.replicate _ ⟨infinity false, 0⟩ }.phase = .absorb ∧
    ¬ Bank.quantizable (Bank.replicate _ ⟨infinity false, 0⟩) := by
  refine ⟨rfl, zeros_quantizable, rfl, fun h => ?_⟩
  have := h ⟨infinity false, 0⟩ (by rw [Bank.mem_cells_iff]; exact ⟨0, by decide, by simp⟩)
  rw [test_quantize_infinite] at this
  cases this

/-- An empty context, and one with every kind of sending. -/
theorem test_hyps_ContextComputesDigest :
    failed.busy = false ∧ failed.ovr = false ∧ legalOutbits 512 = true ∧ (∀ x ∈ ([] : List Send), x.wellFormed = true) ∧
    ∀ x ∈ [Send.byte 0x61, .nop, .word 1 0, .word 8 0], x.wellFormed = true := by decide

/-- A start with `BUSY = 1`, its overrun latched, and one with `BUSY = 0`; accepted and other lengths; text with and without an
encoding. -/
theorem test_hyps_DriverReportsDigest :
    (({ pending .nop failed with ovr := true }.ovr = true → { pending .nop failed with ovr := true }.busy = true) ∧
      ∃ s0, engineTurn { pending .nop failed with ovr := true } = .next s0) ∧
    ((failed.ovr = true → failed.busy = true) ∧ ∃ s0, engineTurn failed = .next s0) ∧
    (64 ≤ (64 : Int) ∧ (64 : Int) ≤ 512 ∧ (64 : Int) % 64 = 0) ∧ (64 ≤ (512 : Int) ∧ (512 : Int) ≤ 512 ∧ (512 : Int) % 64 = 0) ∧
    ¬ (64 ≤ (257 : Int) ∧ (257 : Int) ≤ 512 ∧ (257 : Int) % 64 = 0) ∧
    ¬ (64 ≤ (-64 : Int) ∧ (-64 : Int) ≤ 512 ∧ (-64 : Int) % 64 = 0) ∧
    (fun _ => none : String → Option (List Byte)) "a" = none ∧
    (fun _ => some [0x61] : String → Option (List Byte)) "a" = some [0x61] :=
  ⟨⟨by decide, _, rfl⟩, ⟨by decide, _, rfl⟩, by decide, by decide, by decide, by decide, rfl, rfl⟩

/-- The shortest and the longest output, from an error of before. -/
theorem test_hyps_HashProgramReadsDigest :
    (failed.busy = false ∧ failed.ovr = false ∧ 64 % 64 = 0 ∧ 64 ≤ 64 ∧ 64 ≤ 512) ∧ (512 % 64 = 0 ∧ 64 ≤ 512 ∧ 512 ≤ 512) ∧
    { failed with agenda := hashEvents [0x61, 0x62, 0x63] 512 }.agenda = hashEvents [0x61, 0x62, 0x63] 512 :=
  ⟨by decide, by decide, rfl⟩

theorem test_hyps_CoherentKeptByEveryStep :
    finished.Coherent ∧ step { finished with agenda := [.engine] } = .next finished := ⟨finished_coherent, rfl⟩

/-- Two idle states that differ in both stores. -/
theorem test_hyps_ClosedStoresReachNothing :
    State.reset = { State.reset with amps := initialAmps, hb := Bank.replicate _ initialAmps } ∨
    SameButStores State.reset { State.reset with amps := initialAmps, hb := Bank.replicate _ initialAmps } :=
  .inr ⟨by decide, rfl⟩

/-- Two placements of one logical history. -/
theorem test_hyps_BankPlacementChangesNothing :
    SameLogical { openZero with hb := (Bank.replicate _ uniform).put 1 initialAmps, hptr := 0 }
      { openZero with hb := (Bank.replicate _ uniform).put 3 initialAmps, hptr := 2 } := by
  refine ⟨rfl, fun j hj => ?_⟩
  simp only [State.hist, Bank.cell_put, Bank.cell_replicate, Config.hd]
  interval_cases j <;> rfl

theorem test_hyps_ResetValues : { finished with agenda := [.reset, .wait] }.agenda = .reset :: [.wait] := rfl

end Sys2Proof.Tests
end

namespace Sys2Proof.Machine

/-! ## The grid of binary64 magnitudes (00_scope.md R12, R15) -/

/-- The magnitude, in units of 2^-1074, whose exponent and fraction fields are the number `f`. It goes on past the greatest finite
one, so that the grid has no last point. -/
def magnitude (f : Nat) : Nat := if f < 2 ^ 52 then f else (2 ^ 52 + f % 2 ^ 52) * 2 ^ (f / 2 ^ 52 - 1)

/-- The fields of an infinity: the first number of fields past the finite ones. -/
abbrev infFields : Nat := 2047 * 2 ^ 52

/-- Within a binade, and at its upper end, the fields count the multiples of its spacing. -/
theorem magnitude_binade {e q : Nat} (normal : e = 0 ∨ 2 ^ 52 ≤ q) (hq : q ≤ 2 ^ 53) :
    magnitude (e * 2 ^ 52 + q) = q * 2 ^ e := by
  rcases Nat.lt_or_ge q (2 ^ 52) with small | large
  · obtain rfl : e = 0 := by omega
    rw [Nat.zero_mul, Nat.zero_add, magnitude, if_pos small, pow_zero, Nat.mul_one]
  · have notLow : ¬ e * 2 ^ 52 + q < 2 ^ 52 := by omega
    rcases Nat.lt_or_ge q (2 ^ 53) with inside | top
    · have expo : (e * 2 ^ 52 + q) / 2 ^ 52 - 1 = e := by omega
      have frac : 2 ^ 52 + (e * 2 ^ 52 + q) % 2 ^ 52 = q := by omega
      rw [magnitude, if_neg notLow, expo, frac]
    · obtain rfl : q = 2 ^ 53 := by omega
      have expo : (e * 2 ^ 52 + 2 ^ 53) / 2 ^ 52 - 1 = e + 1 := by omega
      have frac : 2 ^ 52 + (e * 2 ^ 52 + 2 ^ 53) % 2 ^ 52 = 2 ^ 52 := by omega
      rw [magnitude, if_neg notLow, expo, frac, pow_succ, pow_succ]
      ring

theorem magnitude_binade_succ {e q : Nat} (normal : e = 0 ∨ 2 ^ 52 ≤ q) (hq : q < 2 ^ 53) :
    magnitude (e * 2 ^ 52 + q + 1) = (q + 1) * 2 ^ e := by
  rw [Nat.add_assoc, magnitude_binade (by omega) hq]

/-- Twice the midpoint of two neighbours. -/
theorem magnitude_binade_midpoint {e q : Nat} (normal : e = 0 ∨ 2 ^ 52 ≤ q) (hq : q < 2 ^ 53) :
    magnitude (e * 2 ^ 52 + q) + magnitude (e * 2 ^ 52 + q + 1) = (2 * q + 1) * 2 ^ e := by
  rw [magnitude_binade normal hq.le, magnitude_binade_succ normal hq]
  ring

/-- Every number of fields lies in a binade. -/
theorem exists_binade (f : Nat) : ∃ e q, (e = 0 ∨ 2 ^ 52 ≤ q) ∧ q < 2 ^ 53 ∧ f = e * 2 ^ 52 + q :=
  ⟨f / 2 ^ 52 - 1, f - (f / 2 ^ 52 - 1) * 2 ^ 52, by omega, by omega, by omega⟩

theorem magnitude_strictMono : StrictMono magnitude := by
  refine strictMono_nat_of_lt_succ fun f => ?_
  obtain ⟨e, q, normal, hq, rfl⟩ := exists_binade f
  rw [magnitude_binade normal hq.le, magnitude_binade_succ normal hq]
  exact Nat.mul_lt_mul_of_pos_right q.lt_succ_self (Nat.two_pow_pos e)

/-! ### Patterns and fields -/

theorem toNat_packFields (neg : Bool) (f : Nat) :
    (packFields neg f).toNat = neg.toNat * 2 ^ 63 + min f infFields := by
  have h : (if f < 2047 * 2 ^ 52 then f else 2047 * 2 ^ 52) = min f infFields := by
    split <;> simp only [infFields] <;> omega
  have hlt : min f infFields < 2 ^ 63 := by simp only [infFields]; omega
  rw [packFields, h, BitVec.toNat_append, BitVec.toNat_ofNat, Nat.mod_eq_of_lt hlt,
    ← Nat.shiftLeft_add_eq_or_of_lt hlt, Nat.shiftLeft_eq, BitVec.toNat_ofBool]

/-- The fields of a pattern: what is left without the sign bit. -/
def fieldsOf (w : Real64) : Nat := w.toNat % 2 ^ 63

theorem fieldsOf_packFields (neg : Bool) (f : Nat) : fieldsOf (packFields neg f) = min f infFields := by
  have : min f infFields < 2 ^ 63 := by simp only [infFields]; omega
  rw [fieldsOf, toNat_packFields]
  omega

theorem msb_packFields (neg : Bool) (f : Nat) : (packFields neg f).msb = neg := by
  have : min f infFields < 2 ^ 63 := by simp only [infFields]; omega
  rw [BitVec.msb_eq_decide, toNat_packFields]
  cases neg
  · exact decide_eq_false (by simp only [Bool.toNat_false]; omega)
  · exact decide_eq_true (by simp only [Bool.toNat_true]; omega)

/-- What a pattern means, by its fields. -/
theorem datumOf_eq (w : Real64) :
    datumOf w = if fieldsOf w < infFields then .fin w.msb (magnitude (fieldsOf w))
      else if fieldsOf w = infFields then .inf w.msb else .nan := by
  have expo : (w.extractLsb' 52 11).toNat = fieldsOf w / 2 ^ 52 := by
    rw [BitVec.extractLsb'_toNat, Nat.shiftRight_eq_div_pow, fieldsOf]; omega
  have frac : (w.extractLsb' 0 52).toNat = fieldsOf w % 2 ^ 52 := by
    rw [BitVec.extractLsb'_toNat, Nat.shiftRight_eq_div_pow, fieldsOf]; omega
  have hlt : fieldsOf w < 2 ^ 63 := Nat.mod_lt _ (by decide)
  generalize fieldsOf w = f at *
  simp only [datumOf, expo, frac, infFields]
  rcases Nat.lt_or_ge f (2047 * 2 ^ 52) with fin | top
  · rw [if_neg (by omega), if_pos fin, magnitude]
    rcases Nat.lt_or_ge f (2 ^ 52) with low | high
    · rw [if_pos (by omega), if_pos low, Nat.mod_eq_of_lt low]
    · rw [if_neg (by omega : ¬ f / 2 ^ 52 = 0), if_neg (by omega : ¬ f < 2 ^ 52)]
  · rw [if_pos (by omega : f / 2 ^ 52 = 2047), if_neg (by omega : ¬ f < 2047 * 2 ^ 52)]
    rcases Nat.eq_or_lt_of_le top with top | above
    · rw [if_pos (by omega : f % 2 ^ 52 = 0), if_pos top.symm]
    · rw [if_neg (by omega : ¬ f % 2 ^ 52 = 0), if_neg (by omega : ¬ f = 2047 * 2 ^ 52)]

theorem datumOf_packFields (neg : Bool) (f : Nat) :
    datumOf (packFields neg f) = if f < infFields then .fin neg (magnitude f) else .inf neg := by
  rw [datumOf_eq, fieldsOf_packFields, msb_packFields]
  rcases Nat.lt_or_ge f infFields with fin | top
  · rw [Nat.min_eq_left fin.le]
    simp only [fin, if_true]
  · rw [Nat.min_eq_right top, if_neg (Nat.lt_irrefl _), if_pos rfl, if_neg (Nat.not_lt.2 top)]

/-- A pattern that is no NaN is its sign and its fields, packed. -/
theorem packFields_fieldsOf {w : Real64} (h : fieldsOf w ≤ infFields) : packFields w.msb (fieldsOf w) = w := by
  apply BitVec.eq_of_toNat_eq
  rw [toNat_packFields, Nat.min_eq_left h, BitVec.msb_eq_decide, fieldsOf]
  have := w.isLt
  by_cases high : 2 ^ 63 ≤ w.toNat
  · rw [decide_eq_true (by simpa using high), Bool.toNat_true]; omega
  · rw [decide_eq_false (by simpa using high), Bool.toNat_false]; omega

/-- A pattern of a finite number: its magnitude is that of its fields. -/
theorem datumOf_eq_fin {w : Real64} {neg : Bool} {m : Nat} (h : datumOf w = .fin neg m) :
    fieldsOf w < infFields ∧ w.msb = neg ∧ magnitude (fieldsOf w) = m := by
  rw [datumOf_eq] at h
  split at h
  · next fin => cases h; exact ⟨fin, rfl, rfl⟩
  · split at h <;> cases h

/-- An infinity has one pattern for each sign. -/
theorem datumOf_eq_inf {w : Real64} {neg : Bool} (h : datumOf w = .inf neg) : w = infinity neg := by
  rw [datumOf_eq] at h
  split at h
  · cases h
  · split at h
    · next top => cases h; exact (top ▸ packFields_fieldsOf top.le).symm
    · cases h

/-! ## Rounding to nearest, ties to even -/

/-- Among all magnitudes of the grid the one with fields `f` is nearest to `x`, and when another is as near, the last bit of `f` is
clear. -/
def Nearest (x : ℝ) (f : Nat) : Prop :=
  ∀ g, |(magnitude f : ℝ) - x| ≤ |(magnitude g : ℝ) - x| ∧
    (|(magnitude f : ℝ) - x| = |(magnitude g : ℝ) - x| → g ≠ f → f % 2 = 0)

theorem magnitude_real_lt {f g : Nat} (h : f < g) : (magnitude f : ℝ) < magnitude g :=
  Nat.cast_lt.2 (magnitude_strictMono h)

theorem magnitude_real_le {f g : Nat} (h : f ≤ g) : (magnitude f : ℝ) ≤ magnitude g :=
  Nat.cast_le.2 (magnitude_strictMono.monotone h)

/-- Not above the midpoint of two neighbours the lower one is nearest. -/
theorem nearest_lower {x : ℝ} {f : Nat} (low : (magnitude f : ℝ) ≤ x) (mid : 2 * x ≤ magnitude f + magnitude (f + 1))
    (tie : 2 * x = magnitude f + magnitude (f + 1) → f % 2 = 0) : Nearest x f := by
  intro g
  rw [abs_sub_comm, abs_of_nonneg (sub_nonneg.2 low)]
  rcases lt_trichotomy g f with below | rfl | above
  · have := magnitude_real_lt below
    rw [abs_sub_comm, abs_of_nonneg (by linarith)]
    exact ⟨by linarith, fun h => by linarith⟩
  · exact ⟨by rw [abs_sub_comm]; exact le_abs_self _, fun _ h => absurd rfl h⟩
  · have := magnitude_real_le (Nat.succ_le_of_lt above)
    rw [abs_of_nonneg (by linarith)]
    exact ⟨by linarith, fun h _ => tie (by linarith)⟩

/-- Not below the midpoint of two neighbours the upper one is nearest. -/
theorem nearest_upper {x : ℝ} {f : Nat} (mid : magnitude f + magnitude (f + 1) ≤ 2 * x) (high : x ≤ magnitude (f + 1))
    (tie : 2 * x = magnitude f + magnitude (f + 1) → (f + 1) % 2 = 0) : Nearest x (f + 1) := by
  intro g
  rw [abs_of_nonneg (sub_nonneg.2 high)]
  rcases lt_trichotomy g (f + 1) with below | rfl | above
  · have := magnitude_real_le (Nat.le_of_lt_succ below)
    rw [abs_sub_comm, abs_of_nonneg (by linarith)]
    exact ⟨by linarith, fun h _ => tie (by linarith)⟩
  · exact ⟨le_abs_self _, fun _ h => absurd rfl h⟩
  · have := magnitude_real_lt above
    rw [abs_of_nonneg (by linarith)]
    exact ⟨by linarith, fun h => by linarith⟩

namespace Nearest

variable {x y : ℝ} {f g : Nat}

theorem le_midpoint (h : Nearest x f) (above : f < g) : 2 * x ≤ magnitude f + magnitude g := by
  have near := (h g).1
  have := magnitude_real_lt above
  rcases abs_cases ((magnitude f : ℝ) - x) with ⟨_, _⟩ | ⟨_, _⟩ <;>
    rcases abs_cases ((magnitude g : ℝ) - x) with ⟨_, _⟩ | ⟨_, _⟩ <;> linarith

theorem midpoint_le (h : Nearest x f) (below : g < f) : magnitude g + magnitude f ≤ 2 * x := by
  have near := (h g).1
  have := magnitude_real_lt below
  rcases abs_cases ((magnitude f : ℝ) - x) with ⟨_, _⟩ | ⟨_, _⟩ <;>
    rcases abs_cases ((magnitude g : ℝ) - x) with ⟨_, _⟩ | ⟨_, _⟩ <;> linarith

/-- At the midpoint with another magnitude the last bit is clear. -/
theorem even_of_midpoint (h : Nearest x f) (mid : 2 * x = magnitude f + magnitude g) (other : g ≠ f) : f % 2 = 0 := by
  refine (h g).2 ?_ other
  rw [show (magnitude f : ℝ) - x = -(magnitude g - x) by linarith, abs_neg]

/-- A tie is a tie of two neighbours. -/
theorem tie_of_neighbours (h : Nearest x f) (tie : |(magnitude f : ℝ) - x| = |(magnitude g : ℝ) - x|) (other : g ≠ f) :
    ∃ k, 2 * x = magnitude k + magnitude (k + 1) := by
  have mid : 2 * x = magnitude f + magnitude g := by
    rcases abs_eq_abs.1 tie with same | opposite
    · exact absurd (magnitude_strictMono.injective (Nat.cast_injective (R := ℝ) (by linarith))) other
    · linarith
  rcases Nat.lt_or_gt_of_ne other with below | above
  · obtain ⟨k, rfl⟩ := Nat.exists_eq_succ_of_ne_zero (Nat.ne_zero_of_lt below)
    have := h.midpoint_le k.lt_succ_self
    have := magnitude_real_le (Nat.le_of_lt_succ below)
    exact ⟨k, by linarith⟩
  · have := h.le_midpoint f.lt_succ_self
    have := magnitude_real_le (Nat.succ_le_of_lt above)
    exact ⟨f, by linarith⟩

/-- Rounding is monotone. -/
theorem mono (hx : Nearest x f) (hy : Nearest y g) (h : x ≤ y) : f ≤ g := by
  by_contra! crossed
  have low := hx.midpoint_le crossed
  have high := hy.le_midpoint crossed
  have evenF := hx.even_of_midpoint (g := g) (by linarith) crossed.ne
  have evenG := hy.even_of_midpoint (g := f) (by linarith) crossed.ne'
  have nearer := hy.le_midpoint g.lt_succ_self
  have := magnitude_real_lt (show g + 1 < f by omega)
  linarith

/-- A magnitude rounds to itself. -/
theorem eq_of_exact (h : Nearest (magnitude g) f) : f = g := by
  have self : Nearest (magnitude g) g := fun k => by
    refine ⟨by simp, fun tie other => absurd ?_ other⟩
    rw [sub_self, abs_zero, eq_comm, abs_eq_zero, sub_eq_zero, Nat.cast_inj] at tie
    exact magnitude_strictMono.injective tie
  exact Nat.le_antisymm (h.mono self le_rfl) (self.mono h le_rfl)

end Nearest

/-! ### Overflow -/

/-- Halfway above the greatest finite magnitude. -/
def overflowPoint : Nat := (2 ^ 54 - 1) * 2 ^ 2044

theorem overflowPoint_le : overflowPoint ≤ 2 ^ 2 ^ 12 := by decide +kernel

theorem overflowPoint_eq_midpoint : 2 * overflowPoint = magnitude (infFields - 1) + magnitude (infFields - 1 + 1) := by
  rw [show infFields - 1 = 2045 * 2 ^ 52 + (2 ^ 53 - 1) from rfl, Nat.add_assoc, magnitude_binade (by omega) (by omega),
    magnitude_binade (by omega) (by omega), overflowPoint, pow_succ 2 2044]
  generalize 2 ^ 2044 = p
  omega

/-- What rounds to an infinity: everything from halfway above the greatest finite magnitude on. -/
theorem Nearest.infFields_le_iff {x : ℝ} {f : Nat} (h : Nearest x f) : infFields ≤ f ↔ (overflowPoint : ℝ) ≤ x := by
  have midpoint : 2 * (overflowPoint : ℝ) = magnitude (infFields - 1) + magnitude (infFields - 1 + 1) := by
    exact_mod_cast overflowPoint_eq_midpoint
  constructor
  · intro top
    have := h.midpoint_le (show infFields - 1 < f from Nat.lt_of_lt_of_le (by decide) top)
    have := magnitude_real_le (show infFields - 1 + 1 ≤ f from top)
    linarith
  · intro reaches
    by_contra! crossed
    have high := h.le_midpoint (show f < infFields - 1 + 1 from crossed)
    have le := magnitude_real_le (show f ≤ infFields - 1 from Nat.le_of_lt_succ crossed)
    have last : f = infFields - 1 :=
      magnitude_strictMono.injective (Nat.cast_injective (R := ℝ) (by linarith))
    have even := h.even_of_midpoint (g := infFields - 1 + 1) (by linarith) crossed.ne'
    rw [last] at even
    exact absurd even (by decide)

/-! ### The rounding of a quotient (00_scope.md R12) -/

/-- Past the range it halves, the bisecting logarithm stays at its greatest value. -/
theorem bitLog_of_ge (k : Nat) : ∀ n, 2 ^ 2 ^ k ≤ n → bitLog k n = 2 ^ k - 1 := by
  induction k with
  | zero => intro n _; rfl
  | succ k ih =>
    intro n h
    have square : (2 : Nat) ^ 2 ^ (k + 1) = 2 ^ 2 ^ k * 2 ^ 2 ^ k := by rw [← Nat.pow_add, ← Nat.mul_two, ← Nat.pow_succ]
    have pos : 0 < (2 : Nat) ^ 2 ^ k := Nat.two_pow_pos _
    have half : 2 ^ 2 ^ k ≤ n / 2 ^ 2 ^ k := (Nat.le_div_iff_mul_le pos).2 (square ▸ h)
    have le : 2 ^ 2 ^ k ≤ n := le_trans (Nat.le_mul_of_pos_left _ pos) (square ▸ h)
    have : 0 < 2 ^ k := Nat.two_pow_pos _
    rw [bitLog, if_pos le, ih _ half, Nat.pow_succ]
    omega

/-- The spacing that `roundUnits` takes for a quotient with integer part `q0`, as a power of two. -/
def spacing (q0 : Nat) : Nat := if q0 < 2 ^ 53 then 0 else bitLog 12 q0 - 52

/-- Counted in that spacing a quotient has at most 53 bits, and exactly 53 above the lowest binades. -/
theorem div_spacing_bounds {q0 : Nat} (h : q0 < 2 ^ 2 ^ 12) :
    q0 / 2 ^ spacing q0 < 2 ^ 53 ∧ (spacing q0 = 0 ∨ 2 ^ 52 ≤ q0 / 2 ^ spacing q0) := by
  rcases Nat.lt_or_ge q0 (2 ^ 53) with low | high
  · rw [spacing, if_pos low, pow_zero, Nat.div_one]
    exact ⟨low, .inl rfl⟩
  · have log := (Nat.log2_eq_iff (show q0 ≠ 0 by omega) (k := Nat.log2 q0)).1 rfl
    have big : 53 ≤ Nat.log2 q0 := (Nat.le_log2 (by omega)).2 high
    obtain ⟨e, he⟩ := Nat.exists_eq_add_of_le (show 52 ≤ Nat.log2 q0 by omega)
    rw [spacing, if_neg (by omega), bitLog_twelve (by omega) h, he, Nat.add_sub_cancel_left]
    rw [he] at log
    constructor
    · rw [Nat.div_lt_iff_lt_mul (Nat.two_pow_pos e), ← Nat.pow_add, show 53 + e = 52 + e + 1 by omega]
      exact log.2
    · rw [Nat.le_div_iff_mul_le (Nat.two_pow_pos e), ← Nat.pow_add]
      exact .inr log.1

/-- Within a binade the multiple of the spacing on the right side of the midpoint is nearest. -/
theorem nearest_in_binade {x : ℝ} {e q : Nat} {up : Prop} [Decidable up] (normal : e = 0 ∨ 2 ^ 52 ≤ q) (hq : q < 2 ^ 53)
    (low : ((q * 2 ^ e : Nat) : ℝ) ≤ x) (high : x ≤ (((q + 1) * 2 ^ e : Nat) : ℝ))
    (hup : up → (((2 * q + 1) * 2 ^ e : Nat) : ℝ) ≤ 2 * x ∧
      (2 * x = (((2 * q + 1) * 2 ^ e : Nat) : ℝ) → q % 2 = 1))
    (hdown : ¬ up → 2 * x ≤ (((2 * q + 1) * 2 ^ e : Nat) : ℝ) ∧
      (2 * x = (((2 * q + 1) * 2 ^ e : Nat) : ℝ) → q % 2 = 0)) :
    Nearest x (e * 2 ^ 52 + if up then q + 1 else q) := by
  rw [← magnitude_binade normal hq.le] at low
  rw [← magnitude_binade_succ normal hq] at high
  rw [← magnitude_binade_midpoint normal hq, Nat.cast_add] at hup hdown
  split
  · next h =>
    obtain ⟨above, tie⟩ := hup h
    rw [← Nat.add_assoc]
    exact nearest_upper above high fun h => by have := tie h; omega
  · next h =>
    obtain ⟨below, tie⟩ := hdown h
    exact nearest_lower low below fun h => by have := tie h; omega

/-- Comparing a natural number with a multiple of a quotient. -/
theorem natCast_le_mul_div_iff (a k num : Nat) {den : Nat} (hden : 0 < den) :
    (a : ℝ) ≤ k * ((num : ℝ) / den) ↔ a * den ≤ k * num := by
  rw [← mul_div_assoc, le_div_iff₀ (Nat.cast_pos.2 hden), ← Nat.cast_mul, ← Nat.cast_mul, Nat.cast_le]

theorem mul_div_le_natCast_iff (a k num : Nat) {den : Nat} (hden : 0 < den) :
    k * ((num : ℝ) / den) ≤ a ↔ k * num ≤ a * den := by
  rw [← mul_div_assoc, div_le_iff₀ (Nat.cast_pos.2 hden), ← Nat.cast_mul, ← Nat.cast_mul, Nat.cast_le]

/-- `roundUnits` gives the fields nearest to the quotient, for every quotient an operation forms. -/
theorem roundUnits_nearest {num den : Nat} (hden : 0 < den) (h : num / den < 2 ^ 2 ^ 12) :
    Nearest ((num : ℝ) / den) (roundUnits num den) := by
  obtain ⟨hq, normal⟩ := div_spacing_bounds h
  rw [Nat.div_div_eq_div_mul] at hq normal
  simp only [roundUnits, Bool.or_eq_true, Bool.and_eq_true, decide_eq_true_eq]
  rw [← spacing]
  have whole := Nat.div_add_mod num (den * 2 ^ spacing (num / den))
  have rest := Nat.mod_lt num (Nat.mul_pos hden (Nat.two_pow_pos (spacing (num / den))))
  generalize spacing (num / den) = e at *
  generalize num / (den * 2 ^ e) = q at *
  generalize num % (den * 2 ^ e) = r at *
  have le_iff (a k : Nat) := natCast_le_mul_div_iff a k num hden
  have ge_iff (a k : Nat) := mul_div_le_natCast_iff a k num hden
  have lower : q * 2 ^ e * den = den * 2 ^ e * q := by ring
  have upper : (q + 1) * 2 ^ e * den = den * 2 ^ e * q + den * 2 ^ e := by ring
  have middle : (2 * q + 1) * 2 ^ e * den = 2 * (den * 2 ^ e * q) + den * 2 ^ e := by ring
  generalize den * 2 ^ e * q = lo at *
  generalize den * 2 ^ e = d at *
  have le_two := le_iff ((2 * q + 1) * 2 ^ e) 2
  have ge_two := ge_iff ((2 * q + 1) * 2 ^ e) 2
  rw [Nat.cast_ofNat] at le_two ge_two
  refine nearest_in_binade normal hq ?_ ?_ (fun up => ⟨le_two.2 (by omega), fun tie => ?_⟩)
    (fun down => ⟨ge_two.2 (by omega), fun tie => ?_⟩)
  · have := (le_iff (q * 2 ^ e) 1).2 (by omega)
    rwa [Nat.cast_one, one_mul] at this
  · have := (ge_iff ((q + 1) * 2 ^ e) 1).2 (by omega)
    rwa [Nat.cast_one, one_mul] at this
  · have := ge_two.1 tie.le
    omega
  · have := le_two.1 tie.ge
    omega

/-- A quotient past that range overflows too. -/
theorem infFields_le_roundUnits {num den : Nat} (h : 2 ^ 2 ^ 12 ≤ num / den) : infFields ≤ roundUnits num den := by
  have far : ¬ num / den < 2 ^ 53 := by
    have : (2 : Nat) ^ 53 ≤ 2 ^ 2 ^ 12 := Nat.pow_le_pow_right (by decide) (by decide)
    omega
  have e : spacing (num / den) = 2 ^ 12 - 1 - 52 := by rw [spacing, if_neg far, bitLog_of_ge 12 _ h]
  simp only [roundUnits]
  rw [← spacing, e]
  exact le_trans (by decide) (Nat.le_add_right _ _)

/-- Where the rounding of a quotient overflows (00_scope.md R12, assumption 19). -/
theorem infFields_le_roundUnits_iff {num den : Nat} (hden : 0 < den) :
    infFields ≤ roundUnits num den ↔ overflowPoint * den ≤ num := by
  rcases Nat.lt_or_ge (num / den) (2 ^ 2 ^ 12) with near | far
  · rw [(roundUnits_nearest hden near).infFields_le_iff, le_div_iff₀ (Nat.cast_pos.2 hden), ← Nat.cast_mul,
      Nat.cast_le]
  · exact iff_of_true (infFields_le_roundUnits far) ((Nat.le_div_iff_mul_le hden).1 (overflowPoint_le.trans far))

/-! ### The four basic operations on finite numbers: the exact value, rounded once -/

theorem datumOf_roundSigned (neg : Bool) (num den : Nat) :
    datumOf (roundSigned neg num den) =
      if roundUnits num den < infFields then .fin neg (magnitude (roundUnits num den)) else .inf neg :=
  datumOf_packFields ..

theorem datumOf_roundSigned_eq_inf_iff (neg : Bool) {num den : Nat} (hden : 0 < den) :
    datumOf (roundSigned neg num den) = .inf neg ↔ overflowPoint * den ≤ num := by
  rw [datumOf_roundSigned, ← infFields_le_roundUnits_iff hden]
  split
  · next fin => exact iff_of_false nofun (Nat.not_le.2 fin)
  · next top => exact iff_of_true rfl (Nat.not_lt.1 top)

/-- The distance of a magnitude from a quotient, with the denominator multiplied out. -/
theorem natAbs_mul_sub (m num : Nat) {den : Nat} (hden : 0 < den) :
    (((m * den : Int) - num).natAbs : ℝ) = |(m : ℝ) - num / den| * den := by
  have hden' : (0 : ℝ) < den := Nat.cast_pos.2 hden
  rw [Nat.cast_natAbs, Int.cast_abs, ← abs_of_pos hden', ← abs_mul, abs_of_pos hden', sub_mul, div_mul_cancel₀ _ hden'.ne']
  push_cast
  rfl

/-- Below the overflow no finite magnitude is nearer than the one rounding gives, and on a tie that one's last bit is clear. -/
theorem roundUnits_natAbs_le {num den : Nat} (hden : 0 < den) (h : num < overflowPoint * den) (g : Nat) :
    ((magnitude (roundUnits num den) * den : Int) - num).natAbs ≤ ((magnitude g * den : Int) - num).natAbs ∧
    (((magnitude (roundUnits num den) * den : Int) - num).natAbs = ((magnitude g * den : Int) - num).natAbs →
      g ≠ roundUnits num den → roundUnits num den % 2 = 0) := by
  have near : num / den < 2 ^ 2 ^ 12 :=
    Nat.lt_of_lt_of_le ((Nat.div_lt_iff_lt_mul hden).2 h) overflowPoint_le
  have hden' : (0 : ℝ) < den := Nat.cast_pos.2 hden
  obtain ⟨le, tie⟩ := roundUnits_nearest hden near g
  rw [← Nat.cast_le (α := ℝ), ← Nat.cast_inj (R := ℝ), natAbs_mul_sub _ _ hden, natAbs_mul_sub _ _ hden]
  exact ⟨mul_le_mul_of_nonneg_right le hden'.le, fun h => tie (mul_right_cancel₀ hden'.ne' h)⟩

section FiniteOperands

variable {a b : Real64} {s t : Bool} {m n : Nat}

theorem fadd_fin (ha : datumOf a = .fin s m) (hb : datumOf b = .fin t n) :
    fadd a b = if s = t then roundSigned s (m + n) 1 else if m = n then posZero
      else if n < m then roundSigned s (m - n) 1 else roundSigned t (n - m) 1 := by
  rw [fadd, ha, hb, addData]

theorem fsub_fin (ha : datumOf a = .fin s m) (hb : datumOf b = .fin t n) :
    fsub a b = if s = !t then roundSigned s (m + n) 1 else if m = n then posZero
      else if n < m then roundSigned s (m - n) 1 else roundSigned (!t) (n - m) 1 := by
  rw [fsub, ha, hb, Datum.negate, addData]

theorem fmul_fin (ha : datumOf a = .fin s m) (hb : datumOf b = .fin t n) :
    fmul a b = roundSigned (s != t) (m * n) unit64 := by
  rw [fmul, ha, hb]

theorem fdiv_fin (ha : datumOf a = .fin s m) (hb : datumOf b = .fin t n) (hn : 0 < n) :
    fdiv a b = roundSigned (s != t) (m * unit64) n := by
  rw [fdiv, ha, hb]
  exact if_neg hn.ne'

end FiniteOperands

/-- Settles O38: the fields rounding gives are the nearest ones (`roundUnits_nearest`), and each operation rounds its exact
value. -/
theorem roundingIsNearestEven : Obligations.RoundingIsNearestEven := by
  unfold Obligations.RoundingIsNearestEven
  refine ⟨fun neg num den hden => ⟨datumOf_roundSigned_eq_inf_iff neg hden, fun below g hg => ?_⟩,
    fun a b s t m n ha hb => ?_⟩
  · obtain ⟨le, tie⟩ := roundUnits_natAbs_le hden below g
    have fin : roundUnits num den < infFields :=
      Nat.lt_of_not_le fun top => Nat.not_le.2 below ((infFields_le_roundUnits_iff hden).1 top)
    exact ⟨_, _, by rw [datumOf_roundSigned, if_pos fin], by rw [datumOf_packFields, if_pos hg], le, tie⟩
  · rw [fadd_fin ha hb, fadd_fin hb ha, fsub_fin ha hb, fsub_fin hb ha]
    refine ⟨fun same => if_pos same, fun differ less => ⟨?_, ?_⟩, fun differ equal => ?_, fun differ => if_pos ?_,
      fun same less => ⟨?_, ?_⟩, fun same equal => ?_, fmul_fin ha hb, fun hn => fdiv_fin ha hb hn⟩
    · rw [if_neg differ, if_neg less.ne', if_pos less]
    · rw [if_neg differ.symm, if_neg less.ne, if_neg less.asymm]
    · rw [if_neg differ, if_pos equal, posZero]
    · cases s <;> cases t <;> simp at differ ⊢
    · subst same
      rw [if_neg (by simp), if_neg less.ne', if_pos less]
    · subst same
      rw [if_neg (by simp), if_neg less.ne, if_neg less.asymm]
    · subst same
      rw [if_neg (by simp), if_pos equal, posZero]

/-! ## NaNs (93_implementation_defined.md I2) -/

/-- Whatever its free bits, an operation's NaN has the exponent field and the quiet bit set. -/
theorem quietNaN_bits (op : Config.FloatOp) (a b : Real64) : (quietNaN op a b).extractLsb' 51 12 = BitVec.allOnes 12 := by
  rw [quietNaN, BitVec.extractLsb'_or, show (0x7FF8000000000000#64).extractLsb' 51 12 = BitVec.allOnes 12 by decide,
    BitVec.or_allOnes]

@[simp] theorem datumOf_quietNaN (op : Config.FloatOp) (a b : Real64) : datumOf (quietNaN op a b) = .nan := by
  have bits := congrArg BitVec.toNat (quietNaN_bits op a b)
  rw [BitVec.extractLsb'_toNat, Nat.shiftRight_eq_div_pow, BitVec.toNat_allOnes] at bits
  have above : infFields < fieldsOf (quietNaN op a b) := by
    simp only [infFields, fieldsOf]
    omega
  rw [datumOf_eq, if_neg above.le.not_gt, if_neg above.ne']

/-- No comparison with a NaN holds (44_complex_state_normalizer.md R129). -/
theorem compare_nan {w : Real64} (h : datumOf w = .nan) (x : Real64) :
    flt w x = false ∧ flt x w = false ∧ fle w x = false ∧ fle x w = false := by
  cases hx : datumOf x <;> simp [flt, fle, h, hx, Datum.less]

/-- Settles O39: an operation's NaN is a NaN, and no comparison with a NaN holds. -/
theorem nanComparesFalse : Obligations.NanComparesFalse := fun op a b x =>
  ⟨datumOf_quietNaN op a b, by rw [isFinite, datumOf_quietNaN], compare_nan (datumOf_quietNaN op a b) x⟩

/-! ## The square root (00_scope.md R12, R15) -/

theorem unit64_eq : unit64 = 2 ^ 1074 := rfl

theorem unit64_pos : 0 < unit64 := unit64_eq ▸ pow_pos two_pos _

/-- The fields of a power of two. -/
theorem magnitude_pow_two (e : Nat) : magnitude ((e + 1) * 2 ^ 52) = 2 ^ (52 + e) := by
  rw [Nat.add_one_mul, magnitude_binade (.inr le_rfl) (by omega), ← pow_add]

/-- Comparing a natural number with a multiple of the root of another. -/
theorem natCast_le_mul_sqrt_iff (a k n : Nat) : (a : ℝ) ≤ k * √(n : ℝ) ↔ a ^ 2 ≤ k ^ 2 * n := by
  rw [← Real.sqrt_sq (Nat.cast_nonneg (α := ℝ) k), ← Real.sqrt_mul (sq_nonneg _), Real.le_sqrt (Nat.cast_nonneg a)
    (by positivity)]
  norm_cast

theorem mul_sqrt_le_natCast_iff (a k n : Nat) : k * √(n : ℝ) ≤ a ↔ k ^ 2 * n ≤ a ^ 2 := by
  rw [← Real.sqrt_sq (Nat.cast_nonneg (α := ℝ) k), ← Real.sqrt_mul (sq_nonneg _), Real.sqrt_le_left (Nat.cast_nonneg a)]
  norm_cast

/-- The spacing that `rootFields` takes for a radicand, as a power of two. -/
def rootSpacing (n : Nat) : Nat := bitLog 12 n / 2 - 52

/-- Counted in that spacing a root has exactly 53 bits. -/
theorem sqrt_div_spacing_bounds {n a b : Nat} (low : 2 ^ a ≤ n) (high : n < 2 ^ b) (ha : 104 ≤ a) (hb : b ≤ 2 ^ 12) :
    2 ^ 52 ≤ Nat.sqrt (n / 4 ^ rootSpacing n) ∧ Nat.sqrt (n / 4 ^ rootSpacing n) < 2 ^ 53 ∧ rootSpacing n ≤ b / 2 - 52 := by
  have hn : n ≠ 0 := ((pow_pos two_pos a).trans_le low).ne'
  have logLow := (Nat.le_log_iff_pow_le one_lt_two hn).2 low
  have logHigh := (Nat.log_lt_iff_lt_pow one_lt_two hn).2 high
  have below := Nat.pow_log_le_self 2 hn
  have above := Nat.lt_pow_succ_log_self one_lt_two n
  rw [rootSpacing, bitLog_twelve (Nat.pos_of_ne_zero hn) (high.trans_le (pow_le_pow_right₀ one_le_two hb)),
    Nat.log2_eq_log_two]
  obtain ⟨e, he⟩ := Nat.exists_eq_add_of_le (show 52 ≤ Nat.log 2 n / 2 by omega)
  rw [he, Nat.add_sub_cancel_left, Nat.le_sqrt, Nat.sqrt_lt, ← pow_add, ← pow_add,
    show (4 : Nat) ^ e = 2 ^ (2 * e) by rw [Nat.pow_mul], Nat.le_div_iff_mul_le (Nat.two_pow_pos _),
    Nat.div_lt_iff_lt_mul (Nat.two_pow_pos _), ← pow_add, ← pow_add]
  exact ⟨(pow_le_pow_right₀ one_le_two (by omega)).trans below,
    above.trans_le (pow_le_pow_right₀ one_le_two (by omega)), by omega⟩

/-- The square of the midpoint of two neighbours needs more than the 53 bits a magnitude has, so no root is a midpoint. -/
theorem odd_square_ne {q e q' k : Nat} (normal : e = 0 ∨ 2 ^ 52 ≤ q) (pos : 0 < q') (hq' : q' < 2 ^ 53) :
    ((2 * q + 1) * 2 ^ e) ^ 2 ≠ 2 ^ 2 * (q' * 2 ^ k) := by
  intro equal
  rcases normal with rfl | large
  · have odd : Odd (((2 * q + 1) * 2 ^ 0) ^ 2) := by simpa using (odd_two_mul_add_one q).pow
    rw [equal] at odd
    exact Nat.not_even_iff_odd.2 odd ⟨2 * (q' * 2 ^ k), by ring⟩
  · have coprime : Nat.Coprime ((2 * q + 1) ^ 2) (2 ^ (k + 2)) :=
      Nat.Coprime.pow _ _ (Nat.coprime_two_right.2 (odd_two_mul_add_one q))
    have divides : (2 * q + 1) ^ 2 ∣ q' * 2 ^ (k + 2) :=
      ⟨(2 ^ e) ^ 2, by rw [← Nat.mul_pow, equal]; ring⟩
    have le := Nat.le_of_dvd pos (coprime.dvd_of_dvd_mul_right divides)
    have : (2 ^ 53 + 1) ^ 2 ≤ (2 * q + 1) ^ 2 := Nat.pow_le_pow_left (by omega) 2
    omega

/-- The root of a magnitude, in units, is no midpoint of two neighbours. -/
theorem two_mul_sqrt_ne_midpoint {f : Nat} (pos : 0 < magnitude f) (k : Nat) :
    2 * √((magnitude f * unit64 : Nat) : ℝ) ≠ magnitude k + magnitude (k + 1) := by
  intro tie
  obtain ⟨e', q', normal', hq', rfl⟩ := exists_binade f
  obtain ⟨e, q, normal, hq, rfl⟩ := exists_binade k
  rw [← Nat.cast_add, magnitude_binade_midpoint normal hq] at tie
  rw [magnitude_binade normal' hq'.le] at tie pos
  have le := (natCast_le_mul_sqrt_iff _ 2 _).1 tie.ge
  have ge := (mul_sqrt_le_natCast_iff _ 2 _).1 tie.le
  rw [unit64_eq, Nat.mul_assoc, ← pow_add] at le ge
  exact odd_square_ne normal (Nat.pos_of_mul_pos_right pos) hq' (Nat.le_antisymm le ge)

/-- `rootFields` gives the fields nearest to the root of a finite magnitude, in units, and they are finite. -/
theorem rootFields_nearest {f : Nat} (pos : 0 < magnitude f) (fin : f < infFields) :
    Nearest (√((magnitude f * unit64 : Nat) : ℝ)) (rootFields (magnitude f)) ∧ rootFields (magnitude f) < infFields := by
  have noTie := two_mul_sqrt_ne_midpoint pos
  have low : 2 ^ 1074 ≤ magnitude f * unit64 := unit64_eq.ge.trans (Nat.le_mul_of_pos_left _ pos)
  have high : magnitude f * unit64 < 2 ^ (52 + 2046 + 1074) := by
    rw [pow_add, ← unit64_eq, ← magnitude_pow_two]
    exact Nat.mul_lt_mul_of_pos_right (magnitude_strictMono fin) unit64_pos
  obtain ⟨hlow, hhigh, hscale⟩ := sqrt_div_spacing_bounds low high (by decide) (by decide)
  have bits : rootBits (magnitude f * unit64 / 4 ^ rootSpacing (magnitude f * unit64)) 53 0 = _ :=
    rootBits_eq_sqrt _ 53 0 (Nat.zero_le _) (by rw [Nat.zero_add]; exact Nat.sqrt_lt.1 hhigh)
  simp only [rootFields]
  rw [← rootSpacing, bits]
  generalize magnitude f * unit64 = n at *
  have hfour : 0 < 4 ^ rootSpacing n := Nat.pow_pos (by decide)
  have below := (Nat.le_div_iff_mul_le hfour).1 (Nat.sqrt_le (n / 4 ^ rootSpacing n))
  have above := (Nat.div_lt_iff_lt_mul hfour).1 (Nat.lt_succ_sqrt (n / 4 ^ rootSpacing n))
  generalize rootSpacing n = e at *
  generalize Nat.sqrt (n / 4 ^ e) = q at *
  have square (a : Nat) : (a * 2 ^ e) ^ 2 = a * a * 4 ^ e := by
    rw [Nat.mul_pow, Nat.pow_right_comm, sq]
  have le_iff (a k : Nat) := natCast_le_mul_sqrt_iff (a * 2 ^ e) k n
  have ge_iff (a k : Nat) := mul_sqrt_le_natCast_iff (a * 2 ^ e) k n
  simp only [square] at le_iff ge_iff
  have normal : e = 0 ∨ 2 ^ 52 ≤ q := .inr hlow
  have ne : 2 * √(n : ℝ) ≠ (((2 * q + 1) * 2 ^ e : Nat) : ℝ) := by
    rw [← magnitude_binade_midpoint normal hhigh, Nat.cast_add]
    exact noTie _
  refine ⟨nearest_in_binade normal hhigh ?_ ?_ (fun up => ⟨?_, fun tie => absurd tie ne⟩)
    (fun down => ⟨?_, fun tie => absurd tie ne⟩), ?_⟩
  · simpa using (le_iff q 1).2 (by omega)
  · simpa using (ge_iff (q + 1) 1).2 (by rw [Nat.one_pow, Nat.one_mul]; exact above.le)
  · exact (le_iff (2 * q + 1) 2).2 (by omega)
  · exact (ge_iff (2 * q + 1) 2).2 (by omega)
  · simp only [infFields]
    split <;> omega

theorem fsqrt_pos {a : Real64} {m : Nat} (ha : datumOf a = .fin false m) (pos : 0 < m) :
    fsqrt a = packFields false (rootFields m) := by
  rw [fsqrt, ha]
  exact if_neg pos.ne'

theorem fsqrt_zero {a : Real64} {neg : Bool} (ha : datumOf a = .fin neg 0) : fsqrt a = a := by
  rw [fsqrt, ha]
  rfl

theorem fsqrt_infinity {a : Real64} (ha : datumOf a = .inf false) : fsqrt a = a := by
  rw [fsqrt, ha, datumOf_eq_inf ha]

/-- The operands without a root (assumption 19). -/
theorem datumOf_fsqrt_invalid {a : Real64}
    (ha : datumOf a = .nan ∨ datumOf a = .inf true ∨ ∃ m, 0 < m ∧ datumOf a = .fin true m) : datumOf (fsqrt a) = .nan := by
  rcases ha with ha | ha | ⟨m, pos, ha⟩
  · rw [fsqrt, ha, datumOf_quietNaN]
  · rw [fsqrt, ha, datumOf_quietNaN]
  · simp only [fsqrt, ha, if_neg pos.ne', if_true, datumOf_quietNaN]

/-- The root of a positive finite number is nearer to the exact root than every other magnitude. -/
theorem rootFields_abs_lt {f g : Nat} (pos : 0 < magnitude f) (fin : f < infFields) (other : g ≠ rootFields (magnitude f)) :
    |(magnitude (rootFields (magnitude f)) : ℝ) - √((magnitude f * unit64 : Nat) : ℝ)| <
      |(magnitude g : ℝ) - √((magnitude f * unit64 : Nat) : ℝ)| := by
  obtain ⟨near, -⟩ := rootFields_nearest pos fin
  refine lt_of_le_of_ne (near g).1 fun tie => ?_
  obtain ⟨k, mid⟩ := near.tie_of_neighbours tie other
  exact two_mul_sqrt_ne_midpoint pos k mid

/-- Settles O60: the root's fields are nearest to the exact root (`rootFields_nearest`), and no root is a midpoint. -/
theorem squareRootIsCorrectlyRounded : Obligations.SquareRootIsCorrectlyRounded := by
  unfold Obligations.SquareRootIsCorrectlyRounded
  refine ⟨fun a m ha pos => ?_, fun a neg => fsqrt_zero, fun a => fsqrt_infinity, fun a => datumOf_fsqrt_invalid⟩
  obtain ⟨fin, -, rfl⟩ := datumOf_eq_fin ha
  rw [fsqrt_pos ha pos]
  refine ⟨_, by rw [datumOf_packFields, if_pos (rootFields_nearest pos fin).2], fun b mb hb other => ?_⟩
  obtain ⟨finB, sign, rfl⟩ := datumOf_eq_fin hb
  have differ : fieldsOf b ≠ rootFields (magnitude (fieldsOf a)) := fun same => by
    rw [← same, ← sign, packFields_fieldsOf finB.le] at other
    exact other rfl
  have radicand : (magnitude (fieldsOf a) : ℝ) * 2 ^ 1074 = ((magnitude (fieldsOf a) * unit64 : Nat) : ℝ) := by
    rw [unit64_eq, Nat.cast_mul, Nat.cast_pow, Nat.cast_ofNat]
  rw [radicand]
  exact rootFields_abs_lt pos fin differ

end Sys2Proof.Machine

namespace Sys2Proof.Machine

/-! ## Non-negative numbers (10_state.md R40)

The pattern of a non-negative number, +0.0 to +infinity, is its fields, and the order of the patterns is that of the numbers.
In that order the operations the walk uses are monotone. -/

/-- A pattern from +0.0 to the positive infinity. -/
def NonNeg (w : Real64) : Prop := w.toNat ≤ infFields

theorem datumOf_of_lt {w : Real64} (h : w.toNat < infFields) : datumOf w = .fin false (magnitude w.toNat) := by
  have low : w.toNat < 2 ^ 63 := h.trans (by decide)
  rw [datumOf_eq, fieldsOf, Nat.mod_eq_of_lt low, if_pos h, BitVec.msb_eq_decide, decide_eq_false (by simpa using low)]

@[simp] theorem datumOf_infinity (neg : Bool) : datumOf (infinity neg) = .inf neg := by
  rw [infinity, datumOf_packFields, if_neg (Nat.lt_irrefl _)]

theorem toNat_infinity : (infinity false).toNat = infFields := by decide

theorem toNat_roundSigned (num den : Nat) : (roundSigned false num den).toNat = min (roundUnits num den) infFields := by
  rw [roundSigned, toNat_packFields, Bool.toNat_false, Nat.zero_mul, Nat.zero_add]

theorem nonNeg_roundSigned (num den : Nat) : NonNeg (roundSigned false num den) :=
  (toNat_roundSigned num den).trans_le (Nat.min_le_right _ _)

theorem nonNeg_zero : NonNeg 0#64 := Nat.zero_le _

theorem nonNeg_infinity : NonNeg (infinity false) := toNat_infinity.le

/-- A non-negative number is finite or the infinity. -/
theorem NonNeg.finite_or_infinity {w : Real64} (h : NonNeg w) : w.toNat < infFields ∨ w = infinity false := by
  rcases Nat.lt_or_eq_of_le h with fin | top
  · exact .inl fin
  · exact .inr (BitVec.eq_of_toNat_eq (top.trans toNat_infinity.symm))

/-! ### Rounding as an order map -/

theorem toNat_roundSigned_mono {num den num' den' : Nat} (hden : 0 < den) (hden' : 0 < den') (h : num * den' ≤ num' * den) :
    (roundSigned false num den).toNat ≤ (roundSigned false num' den').toNat := by
  rw [toNat_roundSigned, toNat_roundSigned]
  rcases Nat.lt_or_ge (num' / den') (2 ^ 2 ^ 12) with near | far
  · have le : (num : ℝ) / den ≤ num' / den' := by
      rw [div_le_div_iff₀ (Nat.cast_pos.2 hden) (Nat.cast_pos.2 hden'), ← Nat.cast_mul, ← Nat.cast_mul, Nat.cast_le]
      exact h
    have near' : num / den < 2 ^ 2 ^ 12 := by
      refine lt_of_le_of_lt ((Nat.le_div_iff_mul_le hden').2 (Nat.le_of_mul_le_mul_right ?_ hden)) near
      calc num / den * den' * den = num / den * den * den' := Nat.mul_right_comm ..
        _ ≤ num * den' := Nat.mul_le_mul_right _ (Nat.div_mul_le_self ..)
        _ ≤ num' * den := h
    exact min_le_min_right _ ((roundUnits_nearest hden near').mono (roundUnits_nearest hden' near) le)
  · rw [Nat.min_eq_right (infFields_le_roundUnits far)]
    exact Nat.min_le_right _ _

/-- A quotient that is a finite magnitude is delivered exactly. -/
theorem toNat_roundSigned_exact {f den : Nat} (fin : f < infFields) (hden : 0 < den) :
    (roundSigned false (magnitude f * den) den).toNat = f := by
  have range : magnitude f * den / den < 2 ^ 2 ^ 12 := by
    have below := magnitude_strictMono fin
    rw [show infFields = (2046 + 1) * 2 ^ 52 from rfl, magnitude_pow_two] at below
    rw [Nat.mul_div_cancel _ hden]
    exact below.trans_le (pow_le_pow_right₀ one_le_two (by decide))
  have near := roundUnits_nearest hden range
  rw [Nat.cast_mul, mul_div_cancel_right₀ _ (Nat.cast_ne_zero.2 hden.ne')] at near
  rw [toNat_roundSigned, near.eq_of_exact, Nat.min_eq_left fin.le]

theorem roundSigned_zero {den : Nat} (hden : 0 < den) : roundSigned false 0 den = 0#64 := by
  have exact := toNat_roundSigned_exact (f := 0) (by decide) hden
  rw [show magnitude 0 = 0 from rfl, Nat.zero_mul] at exact
  exact BitVec.eq_of_toNat_eq exact

/-! ### Sums -/

theorem fadd_of_lt {a b : Real64} (ha : a.toNat < infFields) (hb : b.toNat < infFields) :
    fadd a b = roundSigned false (magnitude a.toNat + magnitude b.toNat) 1 := by
  rw [fadd_fin (datumOf_of_lt ha) (datumOf_of_lt hb), if_pos rfl]

theorem fadd_infinity {a b : Real64} (ha : NonNeg a) (hb : NonNeg b) (h : a = infinity false ∨ b = infinity false) :
    fadd a b = infinity false := by
  rcases ha.finite_or_infinity with finA | rfl <;> rcases hb.finite_or_infinity with finB | rfl
  · rcases h with rfl | rfl
    · exact absurd toNat_infinity finA.ne
    · exact absurd toNat_infinity finB.ne
  · rw [fadd, datumOf_of_lt finA, datumOf_infinity, addData]
  · rw [fadd, datumOf_of_lt finB, datumOf_infinity, addData]
  · rw [fadd, datumOf_infinity, addData, if_pos rfl]

theorem nonNeg_fadd {a b : Real64} (ha : NonNeg a) (hb : NonNeg b) : NonNeg (fadd a b) := by
  rcases ha.finite_or_infinity with finA | infA
  · rcases hb.finite_or_infinity with finB | infB
    · exact fadd_of_lt finA finB ▸ nonNeg_roundSigned _ _
    · exact fadd_infinity ha hb (.inr infB) ▸ nonNeg_infinity
  · exact fadd_infinity ha hb (.inl infA) ▸ nonNeg_infinity

theorem fadd_mono {a b a' b' : Real64} (ha' : NonNeg a') (hb' : NonNeg b') (ha : a.toNat ≤ a'.toNat)
    (hb : b.toNat ≤ b'.toNat) : (fadd a b).toNat ≤ (fadd a' b').toNat := by
  have bounded : NonNeg (fadd a b) := nonNeg_fadd (ha.trans ha') (hb.trans hb')
  rcases ha'.finite_or_infinity with finA | infA
  · rcases hb'.finite_or_infinity with finB | infB
    · rw [fadd_of_lt finA finB, fadd_of_lt (ha.trans_lt finA) (hb.trans_lt finB)]
      refine toNat_roundSigned_mono one_pos one_pos (Nat.mul_le_mul_right _ (Nat.add_le_add ?_ ?_))
      · exact magnitude_strictMono.monotone ha
      · exact magnitude_strictMono.monotone hb
    · exact fadd_infinity ha' hb' (.inr infB) ▸ toNat_infinity ▸ bounded
  · exact fadd_infinity ha' hb' (.inl infA) ▸ toNat_infinity ▸ bounded

theorem fadd_zero {a : Real64} (ha : NonNeg a) : fadd a 0#64 = a := by
  rcases ha.finite_or_infinity with fin | inf
  · apply BitVec.eq_of_toNat_eq
    have exact := toNat_roundSigned_exact fin one_pos
    rwa [fadd_of_lt fin (by decide), show magnitude (0#64).toNat = 0 from rfl, Nat.add_zero, ← Nat.mul_one (magnitude _)]
  · rw [fadd_infinity ha nonNeg_zero (.inl inf), inf]

theorem fadd_comm {a b : Real64} (ha : NonNeg a) (hb : NonNeg b) : fadd a b = fadd b a := by
  rcases ha.finite_or_infinity with finA | infA
  · rcases hb.finite_or_infinity with finB | infB
    · rw [fadd_of_lt finA finB, fadd_of_lt finB finA, Nat.add_comm]
    · rw [fadd_infinity ha hb (.inr infB), fadd_infinity hb ha (.inl infB)]
  · rw [fadd_infinity ha hb (.inl infA), fadd_infinity hb ha (.inr infA)]

theorem le_fadd_left {a b : Real64} (ha : NonNeg a) (hb : NonNeg b) : a.toNat ≤ (fadd a b).toNat :=
  calc a.toNat = (fadd a 0#64).toNat := by rw [fadd_zero ha]
    _ ≤ (fadd a b).toNat := fadd_mono ha hb le_rfl (Nat.zero_le _)

theorem le_fadd_right {a b : Real64} (ha : NonNeg a) (hb : NonNeg b) : b.toNat ≤ (fadd a b).toNat :=
  fadd_comm hb ha ▸ le_fadd_left hb ha

/-! ### Products -/

theorem fmul_of_lt {a b : Real64} (ha : a.toNat < infFields) (hb : b.toNat < infFields) :
    fmul a b = roundSigned false (magnitude a.toNat * magnitude b.toNat) unit64 := by
  rw [fmul_fin (datumOf_of_lt ha) (datumOf_of_lt hb), bne_self_eq_false]

theorem nonNeg_fmul {a b : Real64} (ha : a.toNat < infFields) (hb : b.toNat < infFields) : NonNeg (fmul a b) :=
  fmul_of_lt ha hb ▸ nonNeg_roundSigned _ _

theorem fmul_mono {a b a' b' : Real64} (ha' : a'.toNat < infFields) (hb' : b'.toNat < infFields) (ha : a.toNat ≤ a'.toNat)
    (hb : b.toNat ≤ b'.toNat) : (fmul a b).toNat ≤ (fmul a' b').toNat := by
  rw [fmul_of_lt ha' hb', fmul_of_lt (ha.trans_lt ha') (hb.trans_lt hb')]
  refine toNat_roundSigned_mono unit64_pos unit64_pos (Nat.mul_le_mul_right _ (Nat.mul_le_mul ?_ ?_))
  · exact magnitude_strictMono.monotone ha
  · exact magnitude_strictMono.monotone hb

theorem fmul_zero {a : Real64} (ha : a.toNat < infFields) : fmul a 0#64 = 0#64 := by
  rw [fmul_of_lt ha (by decide), show magnitude (0#64).toNat = 0 from rfl, Nat.mul_zero, roundSigned_zero unit64_pos]

/-! ### Roots -/

theorem fsqrt_of_pos {a : Real64} (pos : 0 < a.toNat) (fin : a.toNat < infFields) :
    Nearest (√((magnitude a.toNat * unit64 : Nat) : ℝ)) (fsqrt a).toNat ∧ (fsqrt a).toNat < infFields := by
  have posM : 0 < magnitude a.toNat := magnitude_strictMono pos
  obtain ⟨near, finR⟩ := rootFields_nearest posM fin
  have root : (fsqrt a).toNat = rootFields (magnitude a.toNat) := by
    rw [fsqrt_pos (datumOf_of_lt fin) posM, toNat_packFields, Bool.toNat_false, Nat.zero_mul, Nat.zero_add, Nat.min_eq_left finR.le]
  rw [root]
  exact ⟨near, finR⟩

theorem fsqrt_zero_eq : fsqrt 0#64 = 0#64 := fsqrt_zero datumOf_posZero

theorem nonNeg_fsqrt {a : Real64} (ha : NonNeg a) : NonNeg (fsqrt a) := by
  rcases ha.finite_or_infinity with fin | rfl
  · rcases Nat.eq_zero_or_pos a.toNat with zero | pos
    · rw [show a = 0#64 from BitVec.eq_of_toNat_eq zero, fsqrt_zero_eq]
      exact nonNeg_zero
    · exact (fsqrt_of_pos pos fin).2.le
  · rw [fsqrt_infinity (datumOf_infinity _)]
    exact nonNeg_infinity

theorem fsqrt_mono {a b : Real64} (hb : NonNeg b) (h : a.toNat ≤ b.toNat) : (fsqrt a).toNat ≤ (fsqrt b).toNat := by
  have bounded : NonNeg (fsqrt a) := nonNeg_fsqrt (h.trans hb)
  rcases hb.finite_or_infinity with fin | rfl
  · rcases Nat.eq_zero_or_pos a.toNat with zero | pos
    · rw [show a = 0#64 from BitVec.eq_of_toNat_eq zero, fsqrt_zero_eq]
      exact Nat.zero_le _
    · refine (fsqrt_of_pos pos (h.trans_lt fin)).1.mono (fsqrt_of_pos (pos.trans_le h) fin).1 (Real.sqrt_le_sqrt ?_)
      exact Nat.cast_le.2 (Nat.mul_le_mul_right _ (magnitude_strictMono.monotone h))
  · rw [fsqrt_infinity (datumOf_infinity _), toNat_infinity]
    exact bounded

/-- The pattern of a power of two. -/
def powTwo (e : Nat) : Real64 := packFields false ((e + 1) * 2 ^ 52)

theorem toNat_powTwo {e : Nat} (h : e < 2046) : (powTwo e).toNat = (e + 1) * 2 ^ 52 := by
  rw [powTwo, toNat_packFields, Bool.toNat_false, Nat.zero_mul, Nat.zero_add, Nat.min_eq_left]
  simp only [infFields]
  omega

/-- Squaring a power of two and taking the root loses nothing, while the square is in range. -/
theorem fsqrt_fmul_powTwo {e : Nat} (low : 511 ≤ e) (high : e < 1534) : fsqrt (fmul (powTwo e) (powTwo e)) = powTwo e := by
  obtain ⟨k, rfl⟩ := Nat.exists_eq_add_of_le low
  have fields := toNat_powTwo (show 511 + k < 2046 by omega)
  have fin : (powTwo (511 + k)).toNat < infFields := by simp only [fields, infFields]; omega
  have finSquare : (2 * k + 1) * 2 ^ 52 < infFields := by simp only [infFields]; omega
  have squares : magnitude (powTwo (511 + k)).toNat * magnitude (powTwo (511 + k)).toNat =
      magnitude ((2 * k + 1) * 2 ^ 52) * unit64 := by
    rw [fields, magnitude_pow_two, magnitude_pow_two, unit64_eq, ← pow_add, ← pow_add]
    congr 1
    omega
  have square : (fmul (powTwo (511 + k)) (powTwo (511 + k))).toNat = (2 * k + 1) * 2 ^ 52 := by
    rw [fmul_of_lt fin fin, squares, toNat_roundSigned_exact finSquare unit64_pos]
  obtain ⟨near, -⟩ := fsqrt_of_pos (square ▸ Nat.mul_pos (Nat.succ_pos _) (by decide)) (square ▸ finSquare)
  rw [square, ← squares, Nat.cast_mul, Real.sqrt_mul_self (Nat.cast_nonneg _)] at near
  exact BitVec.eq_of_toNat_eq near.eq_of_exact

/-! ### Quotients and comparisons -/

theorem fdiv_of_lt {a b : Real64} (ha : a.toNat < infFields) (pos : 0 < b.toNat) (hb : b.toNat < infFields) :
    fdiv a b = roundSigned false (magnitude a.toNat * unit64) (magnitude b.toNat) := by
  rw [fdiv_fin (datumOf_of_lt ha) (datumOf_of_lt hb) (magnitude_strictMono pos), bne_self_eq_false]

theorem fdiv_infinity {a : Real64} (ha : a.toNat < infFields) : fdiv a (infinity false) = 0#64 := by
  rw [fdiv, datumOf_of_lt ha, datumOf_infinity]
  exact roundSigned_zero one_pos

theorem zero_fdiv {b : Real64} (pos : 0 < b.toNat) (hb : NonNeg b) : fdiv 0#64 b = 0#64 := by
  rcases hb.finite_or_infinity with fin | rfl
  · rw [fdiv_of_lt (by decide) pos fin, show magnitude (0#64).toNat = 0 from rfl, Nat.zero_mul,
      roundSigned_zero (magnitude_strictMono pos)]
  · exact fdiv_infinity (by decide)

/-- On non-negative numbers the comparison is that of the patterns. -/
theorem flt_iff {a b : Real64} (ha : NonNeg a) (hb : NonNeg b) : flt a b = true ↔ a.toNat < b.toNat := by
  rcases ha.finite_or_infinity with finA | rfl <;> rcases hb.finite_or_infinity with finB | rfl
  · rw [flt, datumOf_of_lt finA, datumOf_of_lt finB, Datum.less, decide_eq_true_iff, magnitude_strictMono.lt_iff_lt]
  · rw [flt, datumOf_of_lt finA, datumOf_infinity, toNat_infinity]
    exact iff_of_true rfl finA
  · rw [flt, datumOf_of_lt finB, datumOf_infinity, toNat_infinity]
    exact iff_of_false Bool.false_ne_true finB.le.not_gt
  · rw [flt, datumOf_infinity]
    exact iff_of_false Bool.false_ne_true (Nat.lt_irrefl _)

/-! ## Bounded amplitudes (10_state.md R40, 44_complex_state_normalizer.md R131) -/

/-- 2.0, the bound of a tame amplitude (assumption 22). -/
def two : Real64 := 0x4000000000000000#64

/-- 4.0. -/
def four : Real64 := 0x4010000000000000#64

/-- A real, non-negative amplitude of at most `c`. -/
def Cplx.upTo (c : Real64) (z : Cplx) : Prop := z.im = 0#64 ∧ z.re.toNat ≤ c.toNat

/-- Every amplitude of a vector is real, non-negative and at most `c`. -/
def Bank.upTo (c : Real64) (v : Amps) : Prop := ∀ k, (v.cell k).upTo c

theorem Bank.tame_iff_upTo (v : Amps) : v.tame ↔ v.upTo two := by
  constructor
  · exact fun h k => h _ (List.getElem_mem _)
  · intro h z hz
    obtain ⟨k, -, rfl⟩ := (Bank.mem_cells_iff v z).1 hz
    exact h k

theorem Cplx.upTo_zero : Cplx.zero.upTo two := ⟨rfl, by decide⟩

theorem Cplx.upTo.scale {c w : Real64} {z : Cplx} (h : z.upTo c) (hc : c.toNat < infFields) (hw : w.toNat < infFields) :
    (z.scale w).upTo (fmul w c) := by
  obtain ⟨im, re⟩ := h
  exact ⟨by rw [Cplx.scale, im, fmul_zero hw], fmul_mono hw hc le_rfl re⟩

theorem Cplx.upTo.add {c d : Real64} {z w : Cplx} (hz : z.upTo c) (hw : w.upTo d) (hc : NonNeg c) (hd : NonNeg d) :
    (z.add w).upTo (fadd c d) := by
  obtain ⟨imZ, reZ⟩ := hz
  obtain ⟨imW, reW⟩ := hw
  exact ⟨by rw [Cplx.add, imZ, imW, fadd_zero nonNeg_zero], fadd_mono hc hd reZ reW⟩

/-! ### The norm of a bounded vector (44_complex_state_normalizer.md R126) -/

/-- A sum of squares is a number, and is at least each of them. -/
theorem foldl_squares {xs : List Real64} (fin : ∀ x ∈ xs, x.toNat < infFields) : ∀ acc, NonNeg acc →
    NonNeg (xs.foldl (fun acc x => fadd acc (fmul x x)) acc) ∧
    acc.toNat ≤ (xs.foldl (fun acc x => fadd acc (fmul x x)) acc).toNat ∧
    ∀ x ∈ xs, (fmul x x).toNat ≤ (xs.foldl (fun acc x => fadd acc (fmul x x)) acc).toNat := by
  induction xs with
  | nil => exact fun acc hacc => ⟨hacc, le_rfl, nofun⟩
  | cons y ys ih =>
    intro acc hacc
    obtain ⟨finY, finYs⟩ := List.forall_mem_cons.1 fin
    have square := nonNeg_fmul finY finY
    obtain ⟨number, le, each⟩ := ih finYs _ (nonNeg_fadd hacc square)
    refine ⟨number, (le_fadd_left hacc square).trans le, fun x hx => ?_⟩
    rcases List.mem_cons.1 hx with rfl | hx
    · exact (le_fadd_right hacc square).trans le
    · exact each x hx

theorem nonNeg_normReduce {xs : List Real64} (fin : ∀ x ∈ xs, x.toNat < infFields) : NonNeg (normReduce xs) :=
  (foldl_squares fin _ nonNeg_zero).1

theorem square_le_normReduce {xs : List Real64} (fin : ∀ x ∈ xs, x.toNat < infFields) {x : Real64} (hx : x ∈ xs) :
    (fmul x x).toNat ≤ (normReduce xs).toNat :=
  (foldl_squares fin _ nonNeg_zero).2.2 x hx

section Norm

variable {c : Real64} {v : Amps}

theorem Bank.upTo.re_lt (h : v.upTo c) (hc : c.toNat < infFields) : ∀ x ∈ v.cells.map Cplx.re, x.toNat < infFields := by
  intro x hx
  obtain ⟨z, hz, rfl⟩ := List.mem_map.1 hx
  obtain ⟨k, -, rfl⟩ := (Bank.mem_cells_iff v z).1 hz
  exact (h k).2.trans_lt hc

theorem Bank.upTo.im_lt (h : v.upTo c) : ∀ x ∈ v.cells.map Cplx.im, x.toNat < infFields := by
  intro x hx
  obtain ⟨z, hz, rfl⟩ := List.mem_map.1 hx
  obtain ⟨k, -, rfl⟩ := (Bank.mem_cells_iff v z).1 hz
  rw [(h k).1]
  decide

/-- The norm is a number, no NaN. -/
theorem Bank.upTo.nonNeg_vecNorm (h : v.upTo c) (hc : c.toNat < infFields) : NonNeg (vecNorm v) :=
  nonNeg_fsqrt (nonNeg_fadd (nonNeg_normReduce (h.re_lt hc)) (nonNeg_normReduce h.im_lt))

/-- The norm is at least the root of each square. -/
theorem Bank.upTo.fsqrt_square_le_vecNorm (h : v.upTo c) (hc : c.toNat < infFields) (k : Nat) :
    (fsqrt (fmul (v.cell k).re (v.cell k).re)).toNat ≤ (vecNorm v).toNat := by
  have reals := nonNeg_normReduce (h.re_lt hc)
  have imags := nonNeg_normReduce h.im_lt
  refine fsqrt_mono (nonNeg_fadd reals imags) (le_trans ?_ (le_fadd_left reals imags))
  exact square_le_normReduce (h.re_lt hc) (List.mem_map_of_mem (List.getElem_mem _))

/-- The norm is at least the power of two below each amplitude that is neither tiny nor huge: for that power squaring and taking
the root lose nothing. -/
theorem Bank.upTo.powTwo_le_vecNorm (h : v.upTo c) (hc : c.toNat < 1535 * 2 ^ 52) (k : Nat)
    (low : 512 * 2 ^ 52 ≤ (v.cell k).re.toNat) : (v.cell k).re.toNat / 2 ^ 52 * 2 ^ 52 ≤ (vecNorm v).toNat := by
  have finC : c.toNat < infFields := hc.trans (by decide)
  have high := (h k).2.trans_lt hc
  have fin := (h k).2.trans_lt finC
  have root := h.fsqrt_square_le_vecNorm finC k
  generalize (v.cell k).re = x at *
  obtain ⟨e, he⟩ := Nat.exists_eq_add_of_le' (show 1 ≤ x.toNat / 2 ^ 52 by omega)
  have fields := toNat_powTwo (show e < 2046 by omega)
  have below : (powTwo e).toNat ≤ x.toNat := by omega
  calc x.toNat / 2 ^ 52 * 2 ^ 52 = (powTwo e).toNat := by rw [fields, he]
    _ = (fsqrt (fmul (powTwo e) (powTwo e))).toNat := by rw [fsqrt_fmul_powTwo (by omega) (by omega)]
    _ ≤ (fsqrt (fmul x x)).toNat := fsqrt_mono (nonNeg_fmul fin fin) (fmul_mono fin fin below below)
    _ ≤ (vecNorm v).toNat := root

/-! ### Scaling by the norm (44_complex_state_normalizer.md R128, R130) -/

/-- A magnitude is less than twice the power of two with its exponent field. -/
theorem magnitude_le_two_mul {x n : Nat} (pos : 0 < x / 2 ^ 52) (h : x / 2 ^ 52 * 2 ^ 52 ≤ n) :
    magnitude x ≤ 2 * magnitude n := by
  obtain ⟨e, he⟩ := Nat.exists_eq_add_of_le' (show 1 ≤ x / 2 ^ 52 from pos)
  rw [he] at h
  calc magnitude x ≤ magnitude ((e + 1 + 1) * 2 ^ 52) := magnitude_strictMono.monotone (by omega)
    _ = 2 * magnitude ((e + 1) * 2 ^ 52) := by rw [magnitude_pow_two, magnitude_pow_two, ← add_assoc, pow_succ, Nat.mul_comm]
    _ ≤ 2 * magnitude n := Nat.mul_le_mul_left _ (magnitude_strictMono.monotone h)

/-- A quotient of at most two. -/
theorem fdiv_le_two {x n : Real64} (hx : x.toNat < infFields) (pos : 0 < n.toNat) (hn : n.toNat < infFields)
    (h : magnitude x.toNat ≤ 2 * magnitude n.toNat) : (fdiv x n).toNat ≤ two.toNat := by
  have bound : two.toNat = (roundSigned false (2 * unit64) 1).toNat := by decide +kernel
  rw [fdiv_of_lt hx pos hn, bound]
  refine toNat_roundSigned_mono (magnitude_strictMono pos) one_pos ?_
  calc magnitude x.toNat * unit64 * 1 ≤ 2 * magnitude n.toNat * unit64 * 1 := by gcongr
    _ = 2 * unit64 * magnitude n.toNat := by ring

/-- Divided by the norm, or left alone when the norm is tiny, a bounded vector is tame. -/
theorem Bank.upTo.scaleByNorm_upTo_two (h : v.upTo c) (hc : c.toNat < 1535 * 2 ^ 52) :
    (scaleByNorm v (vecNorm v)).upTo two := by
  intro k
  have finC : c.toNat < infFields := hc.trans (by decide)
  obtain ⟨im, re⟩ := h k
  have power := h.powTwo_le_vecNorm hc k
  have number := h.nonNeg_vecNorm finC
  have eps : normEps.toNat < 1023 * 2 ^ 52 ∧ 512 * 2 ^ 52 ≤ normEps.toNat := by decide
  have epsNumber : NonNeg normEps := (eps.1.trans (by decide)).le
  unfold scaleByNorm
  split
  · next scaled =>
    rw [flt_iff epsNumber number] at scaled
    rw [Bank.cell_map]
    refine ⟨by rw [Cplx.over, im, zero_fdiv (by omega) number], ?_⟩
    rcases number.finite_or_infinity with fin | inf
    · refine fdiv_le_two (re.trans_lt finC) (by omega) fin ?_
      rcases Nat.le_total (v.cell k).re.toNat (vecNorm v).toNat with le | ge
      · exact (magnitude_strictMono.monotone le).trans (Nat.le_mul_of_pos_left _ two_pos)
      · exact magnitude_le_two_mul (by omega) (power (by omega))
    · rw [Cplx.over, inf, fdiv_infinity (re.trans_lt finC)]
      exact Nat.zero_le _
  · next unscaled =>
    rw [flt_iff epsNumber number] at unscaled
    refine ⟨im, Nat.le_of_not_lt fun above => ?_⟩
    have : two.toNat = 1024 * 2 ^ 52 := rfl
    have := power (by omega)
    omega

end Norm

/-! ### The evolution step keeps amplitudes tame (43_chaotic_state_evolver.md R121) -/

theorem initialAmps_upTo_two : initialAmps.upTo two := by
  intro k
  rw [initialAmps, Bank.cell_put, Bank.cell_replicate]
  split
  · exact ⟨rfl, by decide⟩
  · exact Cplx.upTo_zero

/-- The four weighted copies sum to at most 4.0. -/
theorem combine_upTo_four {v : Amps} (h : v.upTo two) (shift : Nat) : (combine v shift).upTo four := by
  intro k
  have bound : fadd (fadd (fadd (fmul coin0 two) (fmul coin1 two)) (fmul coin2 two)) (fmul coin3 two) = four := by
    decide +kernel
  have copy {w : Real64} (hw : w.toNat < infFields) (i : Nat) : ((v.cell i).scale w).upTo (fmul w two) :=
    (h i).scale (by decide) hw
  have number {w : Real64} (hw : w.toNat < infFields) : NonNeg (fmul w two) := nonNeg_fmul hw (by decide)
  have w0 : coin0.toNat < infFields := by decide
  have w1 : coin1.toNat < infFields := by decide
  have w2 : coin2.toNat < infFields := by decide
  have w3 : coin3.toNat < infFields := by decide
  simp only [combine, cell_plus, cell_scaleBy, lsh, rsh, Bank.cell_rotate]
  rw [← bound]
  have sum01 := nonNeg_fadd (number w0) (number w1)
  exact (((copy w0 _).add (copy w1 _) (number w0) (number w1)).add (copy w2 _) sum01 (number w2)).add (copy w3 _)
    (nonNeg_fadd sum01 (number w2)) (number w3)

/-- The bound of the blend, about 3.2. -/
def blendBound : Real64 := fadd (fadd (fmul blendNew four) (fmul blendOld two)) (fmul blendMid two)

theorem blend_upTo {n oldest mid : Amps} (hn : n.upTo four) (ho : oldest.upTo two) (hm : mid.upTo two) :
    (blend n oldest mid).upTo blendBound := by
  intro k
  have fresh : NonNeg (fmul blendNew four) := nonNeg_fmul (by decide) (by decide)
  have old : NonNeg (fmul blendOld two) := nonNeg_fmul (by decide) (by decide)
  have middle : NonNeg (fmul blendMid two) := nonNeg_fmul (by decide) (by decide)
  simp only [blend, cell_plus, cell_scaleBy]
  exact (((hn k).scale (by decide) (by decide)).add ((ho k).scale (by decide) (by decide)) fresh old).add
    ((hm k).scale (by decide) (by decide)) (nonNeg_fadd fresh old) middle

/-- Whichever vector the degeneracy test takes, the result is tame. -/
theorem stabilize_upTo_two {newest v : Amps} (hn : newest.upTo two) (hv : v.upTo blendBound) : (stabilize newest v).upTo two := by
  unfold stabilize
  split
  · exact hn.scaleByNorm_upTo_two (by decide)
  · exact hv.scaleByNorm_upTo_two (by decide +kernel)

theorem periodic_upTo_two {t : Amps} (h : t.upTo two) (i : Word) : (periodic i t).upTo two := by
  unfold periodic
  split
  · exact h.scaleByNorm_upTo_two (by decide)
  · exact h

theorem stabilized_upTo_two {v oldest mid newest : Amps} (hv : v.upTo two) (ho : oldest.upTo two) (hm : mid.upTo two)
    (hn : newest.upTo two) (b : Byte) (i : Word) : (stabilized b i v oldest mid newest).upTo two :=
  stabilize_upTo_two hn (blend_upTo (combine_upTo_four hv _) ho hm)

/-- The vector and the four snapshots of a walk are tame. -/
structure Walk.Tame (w : Walk) : Prop where
  amps : w.amps.upTo two
  h0 : w.h0.upTo two
  h1 : w.h1.upTo two
  h2 : w.h2.upTo two
  h3 : w.h3.upTo two

theorem initialWalk_tame : initialWalk.Tame :=
  ⟨initialAmps_upTo_two, initialAmps_upTo_two, initialAmps_upTo_two, initialAmps_upTo_two, initialAmps_upTo_two⟩

theorem walkStep_tame {w : Walk} (h : w.Tame) (b : Byte) (i : Nat) : (walkStep b i w).Tame := by
  have step := stabilized_upTo_two h.amps h.h0 h.h2 h.h3 b (BitVec.ofNat 64 i)
  exact ⟨periodic_upTo_two step _, h.h1, h.h2, h.h3, step⟩

theorem walkFrom_tame (bs : List Byte) : ∀ {w : Walk}, w.Tame → ∀ i, (walkFrom i bs w).Tame := by
  induction bs with
  | nil => exact fun h _ => h
  | cons b bs ih => exact fun h i => ih (walkStep_tame h b i) (i + 1)

/-! ### The compressor has a value (45_amplitude_compressor.md R139) -/

/-- The product of a tame amplitude is at most 4.0 times the scale, which is below 2^64. -/
theorem quantize_isSome {z : Cplx} (h : z.upTo two) : (quantize z).isSome = true := by
  obtain ⟨im, re⟩ := h
  have finRe : z.re.toNat < infFields := re.trans_lt (by decide)
  have square := fmul_mono (by decide) (by decide) re re
  have norm : z.normSq = fmul z.re z.re := by
    rw [Cplx.normSq, im, fmul_zero (by decide), fadd_zero (nonNeg_fmul finRe finRe)]
  have product := fmul_mono (by decide +kernel) (by decide) (norm ▸ square) (le_refl qScale.toNat)
  have bound : magnitude (fmul (fmul two two) qScale).toNat < 2 ^ 64 * unit64 ∧
      (fmul (fmul two two) qScale).toNat < infFields := by decide +kernel
  have range : magnitude (fmul z.normSq qScale).toNat / unit64 < 2 ^ 64 :=
    (Nat.div_lt_iff_lt_mul unit64_pos).2 ((magnitude_strictMono.monotone product).trans_lt bound.1)
  rw [quantize, datumOf_of_lt (product.trans_lt bound.2)]
  simp only [Bool.false_eq_true, false_and, if_false, if_pos range, Option.isSome_some]

theorem compressFrom_isSome (zs : List Cplx) : ∀ i acc, (∀ z ∈ zs, (quantize z).isSome = true) →
    (compressFrom i zs acc).isSome = true := by
  induction zs with
  | nil => exact fun _ _ _ => rfl
  | cons z zs ih =>
    intro i acc h
    obtain ⟨some, rest⟩ := List.forall_mem_cons.1 h
    obtain ⟨v, hv⟩ := Option.isSome_iff_exists.1 some
    rw [compressFrom, hv]
    exact ih (i + 1) _ rest

theorem compress_isSome {v : Amps} (h : v.quantizable) : (compress v).isSome = true :=
  compressFrom_isSome v.cells 0 _ h

theorem Bank.upTo.quantizable {v : Amps} (h : v.upTo two) : v.quantizable :=
  fun z hz => quantize_isSome ((v.tame_iff_upTo.2 h) z hz)

/-- The compressor has a value after every walk. -/
theorem compress_evolve_isSome (buf : List Byte) : (compress (evolve buf)).isSome = true :=
  compress_isSome (walkFrom_tame buf initialWalk_tame 0).amps.quantizable

theorem squeeze_length (acc : Bank Config.aw Word) (n : Nat) : (squeeze acc n).length = n := by
  rw [squeeze, List.length_map, List.length_range]

/-- Settles O52: every walk stays tame (`walkFrom_tame`), and the compressor has a value for a tame vector. -/
theorem digestAlwaysDefined : Obligations.DigestAlwaysDefined := by
  intro m ob
  obtain ⟨acc, hacc⟩ := Option.isSome_iff_exists.1 (compress_evolve_isSome (pad m))
  exact ⟨squeeze acc (ob / 64), by rw [digest, hacc, Option.map_some], squeeze_length ..⟩

end Sys2Proof.Machine

namespace Sys2Proof

/-! ## Decoding an encoded command (30_encoding.md R71, R76) -/

/-- A command whose operand lies above its opcode is, as a number, the shifted operand plus the opcode. -/
theorem toNat_shiftLeft_or {n : Nat} (x : BitVec n) {shift opcode : Nat} (hn : n + shift ≤ 64) (hop : opcode < 2 ^ shift) :
    ((x.setWidth 64 <<< shift) ||| BitVec.ofNat 64 opcode).toNat = x.toNat * 2 ^ shift + opcode := by
  have room : x.toNat * 2 ^ shift < 2 ^ (n + shift) := by
    rw [pow_add]
    exact Nat.mul_lt_mul_of_pos_right x.isLt (Nat.two_pow_pos _)
  have le : 2 ^ (n + shift) ≤ 2 ^ 64 := pow_le_pow_right₀ one_le_two hn
  have small : x.toNat ≤ x.toNat * 2 ^ shift := Nat.le_mul_of_pos_right _ (Nat.two_pow_pos _)
  have short : 2 ^ shift ≤ 2 ^ 64 := pow_le_pow_right₀ one_le_two (by omega)
  rw [BitVec.toNat_or, BitVec.toNat_shiftLeft, BitVec.toNat_setWidth, BitVec.toNat_ofNat,
    Nat.mod_eq_of_lt (by omega : x.toNat < 2 ^ 64), Nat.mod_eq_of_lt (by omega : opcode < 2 ^ 64), Nat.shiftLeft_eq,
    Nat.mod_eq_of_lt (room.trans_le le), ← Nat.shiftLeft_eq, ← Nat.shiftLeft_add_eq_or_of_lt hop]

/-- A bit field is the number `n` when the word, shifted down and cut, is. -/
theorem extractLsb'_eq_of_toNat {v : Word} {start len n : Nat} (h : v.toNat / 2 ^ start % 2 ^ len = n) :
    v.extractLsb' start len = BitVec.ofNat len n := by
  apply BitVec.eq_of_toNat_eq
  rw [BitVec.extractLsb'_toNat, Nat.shiftRight_eq_div_pow, BitVec.toNat_ofNat, h, ← h, Nat.mod_mod]

theorem decode_encode_init (ob : BitVec 16) : decode (encode (.init ob)) = .ok (.init ob) := by
  have value : (encode (.init ob)).toNat = ob.toNat * 2 ^ 16 + 1 := toNat_shiftLeft_or ob (by decide) (by decide)
  have lt := ob.isLt
  have opc : opcField (encode (.init ob)) = 1#8 := extractLsb'_eq_of_toNat (by omega)
  have clear : reservedClearC (encode (.init ob)) = true := by
    rw [reservedClearC, extractLsb'_eq_of_toNat (n := 0) (by omega), extractLsb'_eq_of_toNat (n := 0) (by omega)]
    rfl
  have field : outbitsField (encode (.init ob)) = ob :=
    (extractLsb'_eq_of_toNat (n := ob.toNat) (by omega)).trans ((BitVec.ofNat_toNat ..).trans (BitVec.setWidth_eq _))
  rw [decode, opc, clear, field]
  rfl

theorem decode_encode_absorb (b : Byte) : decode (encode (.absorb b)) = .ok (.absorb b) := by
  have value : (encode (.absorb b)).toNat = b.toNat * 2 ^ 8 + 2 := toNat_shiftLeft_or b (by decide) (by decide)
  have lt := b.isLt
  have opc : opcField (encode (.absorb b)) = 2#8 := extractLsb'_eq_of_toNat (by omega)
  have clear : reservedClearB (encode (.absorb b)) = true := by
    rw [reservedClearB, extractLsb'_eq_of_toNat (n := 0) (by omega)]
    rfl
  have field : byteField (encode (.absorb b)) = b :=
    (extractLsb'_eq_of_toNat (n := b.toNat) (by omega)).trans ((BitVec.ofNat_toNat ..).trans (BitVec.setWidth_eq _))
  rw [decode, opc, clear, field]
  rfl

/-- Decoding the encoding of a well-formed command gives it back. -/
theorem decode_encode {i : Instr} (h : i.wellFormed = true) : decode (encode i) = .ok i := by
  cases i with
  | nop => decide
  | init ob => exact decode_encode_init ob
  | absorb b => exact decode_encode_absorb b
  | absorbw cnt =>
    simp only [Instr.wellFormed, Bool.and_eq_true, decide_eq_true_eq] at h
    obtain ⟨low, high⟩ := h
    interval_cases cnt <;> decide
  | finalize => decide

end Sys2Proof

namespace Sys2Proof.Machine

/-! ## The machine's walk is the digest's walk (40_host_commands.md R97, R98) -/

/-- The logical history, oldest first, beside the vector: the walk without the ring that holds it. -/
def walkOf (s : State) : Walk := ⟨s.amps, s.hist 0, s.hist 1, s.hist 2, s.hist 3⟩

theorem walkOf_congr {s t : State} (amps : s.amps = t.amps) (hb : s.hb = t.hb) (hptr : s.hptr = t.hptr) : walkOf s = walkOf t := by
  simp only [walkOf, State.hist, amps, hb, hptr]

theorem hist_evolveStep (b : Byte) (i : Word) (s : State) {j : Nat} (hj : j < 4) :
    (evolveStep b i s).hist j = if j = 3 then stabilized b i s.amps (s.hist 0) (s.hist 2) (s.hist 3) else s.hist (j + 1) :=
  hist_appendHist s _ j hj

theorem walkOf_evolveStep (b : Byte) (i : Word) (s : State) : walkOf (evolveStep b i s) = walkStep b i.toNat (walkOf s) := by
  have hist {j : Nat} (hj : j < 4) := hist_evolveStep b i s hj
  rw [walkOf, hist (j := 0) (by decide), hist (j := 1) (by decide), hist (j := 2) (by decide), hist (j := 3) (by decide),
    walkStep, BitVec.ofNat_toNat, BitVec.setWidth_eq]
  rfl

theorem walkOf_absorbByte (b : Byte) (s : State) : walkOf (absorbByte b s) = walkStep b s.pos.toNat (walkOf s) :=
  walkOf_evolveStep b s.pos s

theorem walkOf_padOnce (seed : Word) (s : State) : walkOf (padOnce seed s) = walkStep (padByte seed) s.pos.toNat (walkOf s) :=
  walkOf_evolveStep (padByte seed) s.pos s

/-- A step reads its position modulo 2^64, as the position counter holds it. -/
theorem walkStep_mod (b : Byte) (i : Nat) (w : Walk) : walkStep b (BitVec.ofNat 64 i).toNat w = walkStep b i w := by
  rw [walkStep, BitVec.ofNat_toNat, BitVec.setWidth_eq, walkStep]

theorem walkFrom_append (xs ys : List Byte) : ∀ i w, walkFrom i (xs ++ ys) w = walkFrom (i + xs.length) ys (walkFrom i xs w) := by
  induction xs with
  | nil => exact fun _ _ => rfl
  | cons x xs ih =>
    intro i w
    rw [List.cons_append, walkFrom, ih, walkFrom, List.length_cons, Nat.add_assoc, Nat.add_comm 1]

/-! ### An open context that has absorbed a message -/

/-- What an open context holds once it has absorbed `m`: the walk over `m`, and `POS`, `LONG` and `SUM` of it. -/
structure Absorbed (ob : BitVec 16) (m : List Byte) (s : State) : Prop where
  phase : s.phase = .absorb
  ovr : s.ovr = false
  errcode : s.errcode = .none
  ow : s.ow = BitVec.ofNat 4 (ob.toNat / 64)
  walk : walkOf s = walkFrom 0 m initialWalk
  pos : s.pos = BitVec.ofNat 64 m.length
  long : s.long = decide (64 ≤ m.length)
  sum : s.sum = m.foldl (fun acc b => acc + b.setWidth 64) 0

theorem absorbed_openContext (ob : BitVec 16) {s : State} (h : s.ovr = false) : Absorbed ob [] (openContext ob s) where
  phase := rfl
  ovr := h
  errcode := rfl
  ow := rfl
  walk := by simp only [walkOf, State.hist, openContext_amps, openContext_hb, Bank.cell_replicate]; rfl
  pos := rfl
  long := rfl
  sum := rfl

namespace Absorbed

variable {ob : BitVec 16} {m : List Byte} {s : State}

/-- `LONG` is set by the byte that makes 64. -/
theorem long_succ (h : Absorbed ob m s) : (s.long || decide (s.pos + 1 = 64)) = decide (64 ≤ m.length + 1) := by
  rw [h.long, h.pos]
  rcases Nat.lt_or_ge m.length 64 with short | long
  · have wrap : (BitVec.ofNat 64 m.length + 1 = 64) ↔ m.length + 1 = 64 := by
      rw [← BitVec.toNat_inj, BitVec.toNat_add, BitVec.toNat_ofNat, show (1 : Word).toNat = 1 from rfl,
        show (64 : Word).toNat = 64 from rfl]
      omega
    rw [decide_eq_false (by omega : ¬ 64 ≤ m.length), Bool.false_or, decide_eq_decide, wrap]
    omega
  · rw [decide_eq_true long, Bool.true_or, decide_eq_true (by omega)]

theorem absorbByte (h : Absorbed ob m s) (b : Byte) : Absorbed ob (m ++ [b]) (absorbByte b s) where
  phase := h.phase
  ovr := h.ovr
  errcode := h.errcode
  ow := h.ow
  walk := by rw [walkOf_absorbByte, h.walk, h.pos, walkStep_mod, walkFrom_append, Nat.zero_add]; rfl
  pos := by rw [absorbByte_pos, h.pos, List.length_append, List.length_singleton, BitVec.ofNat_add]; rfl
  long := by rw [absorbByte_long, h.long_succ, List.length_append, List.length_singleton]
  sum := by rw [absorbByte_sum, h.sum, List.foldl_append]; rfl

theorem absorbBytes (bs : List Byte) : ∀ {m : List Byte} {s : State}, Absorbed ob m s →
    Absorbed ob (m ++ bs) (absorbBytes bs s) := by
  induction bs with
  | nil => exact fun h => by rwa [List.append_nil]
  | cons b bs ih => exact fun h => by simpa using ih (h.absorbByte b)

/-- The end of a step keeps it. -/
theorem endStep (h : Absorbed ob m s) : Absorbed ob m (endStep s) := by
  rw [endStep_of_not_ovr h.ovr]
  exact ⟨h.phase, h.ovr, h.errcode, h.ow, h.walk, h.pos, h.long, h.sum⟩

theorem acceptCommand (h : Absorbed ob m s) (v : Word) : Absorbed ob m (acceptCommand v s) :=
  ⟨h.phase, h.ovr, h.errcode, h.ow, h.walk, h.pos, h.long, h.sum⟩

theorem writeData (h : Absorbed ob m s) (d : Word) : Absorbed ob m (writeReg .data d s) :=
  ⟨h.phase, h.ovr, h.errcode, h.ow, h.walk, h.pos, h.long, h.sum⟩

/-! ### The padding (41_preprocessor.md R100, R104) -/

theorem padSeed_eq (h : Absorbed ob m s) (short : m.length < 64) : padSeed s = padSeedOf m := by
  have empty : s.pos = 0 ↔ m = [] := by
    rw [h.pos, ← List.length_eq_zero_iff, ← BitVec.toNat_inj, BitVec.toNat_ofNat, Nat.mod_eq_of_lt (by omega)]
    rfl
  simp only [padSeed, padSeedOf, empty, h.sum]

end Absorbed

/-- The padding loop walks over the padding bytes. -/
theorem walkOf_padLoop (n : Nat) : ∀ (seed : Word) (s : State), s.pos.toNat + n = 64 → (n ≠ 0 → s.long = false) →
    walkOf (padLoop n seed s) = walkFrom s.pos.toNat (padBytes n seed) (walkOf s) := by
  induction n with
  | zero => exact fun _ _ _ _ => rfl
  | succ n ih =>
    intro seed s hpos hlong
    have short := hlong n.succ_ne_zero
    have next : (padOnce (lcg seed) s).pos.toNat = s.pos.toNat + 1 := by
      rw [padOnce_pos, BitVec.toNat_add]
      exact Nat.mod_eq_of_lt (by rw [show (1 : Word).toNat = 1 from rfl]; omega)
    have stillShort : n ≠ 0 → (padOnce (lcg seed) s).long = false := fun more => by
      rw [padOnce_long, short, Bool.false_or, decide_eq_false_iff_not, ← padOnce_pos (lcg seed), ← BitVec.toNat_inj, next]
      rw [show (64 : Word).toNat = 64 from rfl]
      omega
    rw [padLoop, short, if_neg Bool.false_ne_true, ih _ _ (by omega) stillShort, next, walkOf_padOnce, padBytes, walkFrom]

namespace Absorbed

variable {ob : BitVec 16} {m : List Byte} {s : State}

/-- What FINALIZE compresses is the evolution over the padded message. -/
theorem padded_amps (h : Absorbed ob m s) : (padded s).amps = evolve (pad m) := by
  have amps (t : State) : t.amps = (walkOf t).amps := rfl
  rcases Nat.lt_or_ge m.length 64 with short | long
  · have notLong : s.long = false := h.long.trans (decide_eq_false (by omega))
    have pos : s.pos.toNat = m.length := by rw [h.pos, BitVec.toNat_ofNat, Nat.mod_eq_of_lt (by omega)]
    have count : padCount s.pos = minLen - m.length := by
      have : (63 - s.pos).toNat = 63 - m.length := by
        rw [BitVec.toNat_sub_of_le (by rw [BitVec.le_def, pos]; exact Nat.le_of_lt_succ short), pos]
        rfl
      rw [padCount, this, minLen]
      omega
    rw [padded_of_short notLong, padTail, amps, count, walkOf_padLoop _ _ _ (by rw [minLen]; omega) (fun _ => notLong),
      h.padSeed_eq short, h.walk, pos, evolve, pad, walkFrom_append, Nat.zero_add]
  · have isLong : s.long = true := h.long.trans (decide_eq_true long)
    rw [padded_of_long isLong, amps, h.walk, evolve, pad, minLen, Nat.sub_eq_zero_of_le long, padBytes, List.append_nil]

end Absorbed

/-! ### The sendings (40_host_commands.md R97, assumption 21) -/

/-- A command issued while `BUSY = 0` is accepted and executed. -/
theorem issue_of_idle {s : State} {i : Instr} (idle : s.busy = false) (h : i.wellFormed = true) :
    issue i s = exec i (acceptCommand (encode i) s) := by
  rw [issue, writeCmd, idle, if_neg Bool.false_ne_true, engineTurn_of_busy rfl, engineStep_of_decode (decode_encode h)]

theorem exec_absorb_open {s : State} (h : s.phase = .absorb) (b : Byte) :
    exec (.absorb b) s = .next (endStep (absorbByte b s)) := by
  show execAbsorb b s = _
  rw [execAbsorb, inContext_absorb h]

theorem exec_absorbw_open {s : State} (h : s.phase = .absorb) (cnt : Nat) :
    exec (.absorbw cnt) s = .next (endStep (absorbBytes (dataBytes cnt s.pdata) s)) := by
  show execAbsorbw cnt s = _
  rw [execAbsorbw, inContext_absorb h]

theorem exec_init_legal {ob : BitVec 16} (h : legalOutbits ob = true) (s : State) :
    exec (.init ob) s = .next (endStep (openContext ob s)) := by
  show execInit ob s = _
  rw [execInit, h, if_pos rfl]

theorem exec_finalize_open {s : State} (h : s.phase = .absorb) {acc : Bank Config.aw Word}
    (hacc : compress (padded s).amps = some acc) : exec .finalize s = .next (endStep (publish acc (padded s))) := by
  show execFinalize s = _
  rw [execFinalize, inContext_absorb h, hacc]

/-- One sending appends its bytes to the message. -/
theorem sendOne_absorbed {ob : BitVec 16} {m : List Byte} {s : State} {x : Send} (h : Absorbed ob m s) (idle : s.busy = false)
    (wf : x.wellFormed = true) : ∃ t, sendOne x s = .next t ∧ t.busy = false ∧ Absorbed ob (m ++ x.bytes) t := by
  cases x with
  | nop =>
    refine ⟨_, issue_of_idle idle rfl, endStep_busy _, ?_⟩
    rw [Send.bytes, List.append_nil]
    exact (h.acceptCommand _).endStep
  | byte b =>
    have accepted := h.acceptCommand (encode (.absorb b))
    exact ⟨_, (issue_of_idle idle rfl).trans (exec_absorb_open accepted.phase b), endStep_busy _,
      (accepted.absorbByte b).endStep⟩
  | word cnt d =>
    have idle' : (writeReg .data d s).busy = false := idle
    have accepted := (h.writeData d).acceptCommand (encode (.absorbw cnt))
    exact ⟨_, (issue_of_idle (i := .absorbw cnt) idle' wf).trans (exec_absorbw_open accepted.phase cnt), endStep_busy _,
      (accepted.absorbBytes _).endStep⟩

theorem sendAll_absorbed {ob : BitVec 16} (xs : List Send) : ∀ {m : List Byte} {s : State}, Absorbed ob m s → s.busy = false →
    (∀ x ∈ xs, x.wellFormed = true) →
    ∃ t, sendAll xs s = .next t ∧ t.busy = false ∧ Absorbed ob (m ++ xs.flatMap Send.bytes) t := by
  induction xs with
  | nil => exact fun {m s} h idle _ => ⟨s, rfl, idle, by simpa using h⟩
  | cons x xs ih =>
    intro m s h idle wf
    obtain ⟨wfX, wfXs⟩ := List.forall_mem_cons.1 wf
    obtain ⟨u, sent, idleU, hu⟩ := sendOne_absorbed h idle wfX
    obtain ⟨t, rest, idleT, ht⟩ := ih hu idleU wfXs
    refine ⟨t, by rw [sendAll, sent, thenDo, rest], idleT, ?_⟩
    rwa [List.flatMap_cons, ← List.append_assoc]

/-- A legal INIT opens a context that has absorbed nothing. -/
theorem issue_init_absorbed {ob : BitVec 16} {s : State} (idle : s.busy = false) (noOvr : s.ovr = false)
    (legal : legalOutbits ob = true) : ∃ t, issue (.init ob) s = .next t ∧ t.busy = false ∧ Absorbed ob [] t := by
  have opened : Absorbed ob [] (openContext ob (acceptCommand (encode (.init ob)) s)) := absorbed_openContext ob noOvr
  exact ⟨_, (issue_of_idle idle rfl).trans (exec_init_legal legal _), endStep_busy _, opened.endStep⟩

/-- FINALIZE compresses the padded walk and publishes the squeezed words. -/
theorem issue_finalize_absorbed {ob : BitVec 16} {m : List Byte} {s : State} (h : Absorbed ob m s) (idle : s.busy = false) :
    ∃ t acc, issue .finalize s = .next t ∧ compress (evolve (pad m)) = some acc ∧ t.phase = .done ∧ t.errcode = .none ∧
      t.ow = BitVec.ofNat 4 (ob.toNat / 64) ∧ t.dig = squeezeInto t.ow acc := by
  obtain ⟨acc, hacc⟩ := Option.isSome_iff_exists.1 (compress_evolve_isSome (pad m))
  have accepted := h.acceptCommand (encode .finalize)
  generalize hu : acceptCommand (encode .finalize) s = u at accepted
  have frame := padded_frame u
  have noOvr : (publish acc (padded u)).ovr = false := by rw [frame]; exact accepted.ovr
  refine ⟨endStep (publish acc (padded u)), acc, ?_, hacc, ?_⟩
  · rw [issue_of_idle idle rfl, hu, exec_finalize_open accepted.phase (accepted.padded_amps ▸ hacc)]
  · rw [endStep_of_not_ovr noOvr]
    refine ⟨rfl, ?_, ?_, rfl⟩
    · show (padded u).errcode = .none
      rw [frame]
      exact accepted.errcode
    · show (padded u).ow = _
      rw [frame]
      exact accepted.ow

theorem cell_squeezeInto {ow : BitVec 4} (acc : Bank Config.aw Word) {k : Nat} (hk : k < 8) :
    (squeezeInto ow acc).cell k = if k < ow.toNat then squeezeWord acc k else 0 := by
  rw [squeezeInto, Bank.cell_tabulate, Nat.mod_eq_of_lt hk]

theorem squeeze_getElem? (acc : Bank Config.aw Word) {n k : Nat} (hk : k < n) : (squeeze acc n)[k]? = some (squeezeWord acc k) := by
  simp [squeeze, hk]

/-- Settles O51: INIT opens an empty context, every sending appends its bytes (`sendAll_absorbed`), and FINALIZE publishes the
words of the padded walk's compression, which has a value (`compress_evolve_isSome`). -/
theorem contextComputesDigest : Obligations.ContextComputesDigest := by
  intro s ob xs idle noOvr legal wf
  obtain ⟨opened, init, idleOpened, empty⟩ := issue_init_absorbed idle noOvr legal
  obtain ⟨sent, sends, idleSent, absorbed⟩ := sendAll_absorbed xs empty idleOpened wf
  obtain ⟨t, acc, final, hacc, phase, errcode, ow, dig⟩ := issue_finalize_absorbed absorbed idleSent
  rw [List.nil_append] at hacc
  have range : ob.toNat / 64 ≤ 8 := by
    simp only [legalOutbits, Bool.and_eq_true, decide_eq_true_eq] at legal
    omega
  have owNat : t.ow.toNat = ob.toNat / 64 := by rw [ow, BitVec.toNat_ofNat, Nat.mod_eq_of_lt (by omega)]
  refine ⟨t, squeeze acc (ob.toNat / 64), ?_, phase, errcode, owNat, by rw [digest, hacc, Option.map_some], fun k hk => ?_⟩
  · rw [runContext, init, thenDo, sends, thenDo, final]
  · rw [squeeze_getElem? acc (owNat ▸ hk), dig, cell_squeezeInto acc (by omega), if_pos hk]

end Sys2Proof.Machine

namespace Sys2Proof.Machine

/-! ## Everything one step can do (10_state.md R20, 40_host_commands.md R84) -/

/-- What an engine step in `s` has done, just before it ends, when the pending value decodes to the index
(40_host_commands.md R84 to R94, 60_exceptions.md R156). -/
inductive Effect (s : State) : Except Illegal Instr → State → Prop where
  /-- NOP, and in phase ERROR every value but an INIT (40_host_commands.md R94). -/
  | ignored {r : Except Illegal Instr} (why : r = .ok .nop ∨ s.phase = .error) (noInit : ∀ ob, r ≠ .ok (.init ob)) :
      Effect s r s
  /-- ABSORB, ABSORBW or FINALIZE in IDLE or DONE (40_host_commands.md R93). -/
  | misplaced {i : Instr} (closed : s.phase = .idle ∨ s.phase = .done) (noNop : i ≠ .nop) (noInit : ∀ ob, i ≠ .init ob) :
      Effect s (.ok i) (raiseErr .sequence s)
  /-- An ILLEGAL value outside ERROR (60_exceptions.md R156). -/
  | illegal {e : Illegal} (clear : s.phase ≠ .error) : Effect s (.error e) (raiseErr .badCmd s)
  /-- An illegal INIT. -/
  | rejected {ob : BitVec 16} (illegal : legalOutbits ob = false) : Effect s (.ok (.init ob)) (rejectConfig s)
  /-- A legal INIT. -/
  | opened {ob : BitVec 16} (legal : legalOutbits ob = true) : Effect s (.ok (.init ob)) (openContext ob s)
  /-- ABSORB in an open context. -/
  | byte {b : Byte} (phase : s.phase = .absorb) : Effect s (.ok (.absorb b)) (absorbByte b s)
  /-- ABSORBW in an open context. -/
  | word {cnt : Nat} (phase : s.phase = .absorb) : Effect s (.ok (.absorbw cnt)) (absorbBytes (dataBytes cnt s.pdata) s)
  /-- FINALIZE in an open context. -/
  | finalized {acc : Bank Config.aw Word} (phase : s.phase = .absorb) (compressed : compress (padded s).amps = some acc) :
      Effect s (.ok .finalize) (publish acc (padded s))

/-- ABSORB, ABSORBW and FINALIZE outside an open context. -/
theorem effect_of_closed {s t : State} {i : Instr} (noNop : i ≠ .nop) (noInit : ∀ ob, i ≠ .init ob)
    (h : ((s.phase = .idle ∨ s.phase = .done) ∧ t = endStep (raiseErr .sequence s)) ∨ (s.phase = .error ∧ t = endStep s)) :
    ∃ u, Effect s (.ok i) u ∧ t = endStep u := by
  rcases h with ⟨closed, rfl⟩ | ⟨error, rfl⟩
  · exact ⟨_, .misplaced closed noNop noInit, rfl⟩
  · exact ⟨s, .ignored (.inr error) fun ob eq => noInit ob (Except.ok.inj eq), rfl⟩

/-- Everything a command that answers a next state does. -/
theorem exec_effect {i : Instr} {s t : State} (h : exec i s = .next t) : ∃ u, Effect s (.ok i) u ∧ t = endStep u := by
  cases i with
  | nop => exact ⟨s, .ignored (.inl rfl) nofun, (Host.Outcome.next.inj h).symm⟩
  | init ob =>
    rcases execInit_next h with ⟨legal, rfl⟩ | ⟨illegal, rfl⟩
    · exact ⟨_, .opened legal, rfl⟩
    · exact ⟨_, .rejected illegal, rfl⟩
  | absorb b =>
    rcases execAbsorb_next h with ⟨phase, rfl⟩ | closed
    · exact ⟨_, .byte phase, rfl⟩
    · exact effect_of_closed nofun nofun closed
  | absorbw cnt =>
    rcases execAbsorbw_next h with ⟨phase, rfl⟩ | closed
    · exact ⟨_, .word phase, rfl⟩
    · exact effect_of_closed nofun nofun closed
  | finalize =>
    rcases execFinalize_next h with ⟨phase, acc, compressed, rfl⟩ | closed
    · exact ⟨_, .finalized phase compressed, rfl⟩
    · exact effect_of_closed nofun nofun closed

/-- Everything an engine step that answers a next state does. -/
theorem engineStep_effect {s t : State} (h : engineStep s = .next t) : ∃ u, Effect s (decode s.pcmd) u ∧ t = endStep u := by
  cases decoded : decode s.pcmd with
  | ok i =>
    rw [engineStep_of_decode decoded] at h
    exact exec_effect h
  | error e =>
    rw [engineStep_of_illegal decoded] at h
    rcases execIllegal_next h with ⟨error, rfl⟩ | ⟨clear, rfl⟩
    · exact ⟨s, .ignored (.inr error) nofun, rfl⟩
    · exact ⟨_, .illegal clear, rfl⟩

/-- What one step from `s` has done. -/
inductive Stepped (s : State) : State → Prop where
  /-- A read, a poll, or a write that reaches no writable register: the bus answers, and nothing of the engine changes. -/
  | answered (agenda : List Event) (r : BusReply) : Stepped s (record r { s with agenda := agenda })
  /-- A write to `CMD` while no command is pending (40_host_commands.md R82). -/
  | accepted {rest : List Event} {v : Word} (idle : s.busy = false) :
      Stepped s (record .written (acceptCommand v { s with agenda := rest }))
  /-- A write to `CMD` while a command is pending (40_host_commands.md R83). -/
  | overran {rest : List Event} (busy : s.busy = true) : Stepped s (record .written { s with agenda := rest, ovr := true })
  /-- A write to `DATA`. -/
  | wroteData {rest : List Event} {v : Word} (agenda : s.agenda = .write (Config.cheBase + 8) 8 v :: rest) :
      Stepped s (record .written { s with agenda := rest, data := v })
  /-- The reset input. -/
  | reset {rest : List Event} (agenda : s.agenda = .reset :: rest) : Stepped s (resetMachine { s with agenda := rest })
  /-- The engine's turn with nothing pending (40_host_commands.md R81). -/
  | idled {rest : List Event} (turn : s.engineNext rest) (idle : s.busy = false) : Stepped s { s with agenda := rest }
  /-- The engine's turn with a command pending (40_host_commands.md R84). -/
  | executed {rest : List Event} {u : State} (turn : s.engineNext rest) (busy : s.busy = true)
      (effect : Effect { s with agenda := rest } (decode s.pcmd) u) : Stepped s (endStep u)

/-! ### The host's accesses -/

theorem hostRead_eq_record (addr width : Nat) (s : State) : ∃ r, hostRead addr width s = record r s := by
  unfold hostRead
  split
  · exact ⟨_, rfl⟩
  · split <;> exact ⟨_, rfl⟩

/-- The one aligned offset of `DATA` (20_memory.md R46). -/
theorem eq_eight_of_regAt_data : ∀ off : BitVec 7, regAt off = .data → off.toNat % 8 = 0 → off = 8#7 := by decide

theorem addr_of_windowOffset {addr : Nat} {off : BitVec 7} (h : windowOffset addr = some off) :
    addr = Config.cheBase + off.toNat := by
  unfold windowOffset at h
  split at h
  · next inside =>
    cases h
    rw [BitVec.toNat_ofNat]
    omega
  · cases h

/-- Everything a host write does: it changes `CMD`'s state, or `DATA` at its own address, or nothing. -/
theorem hostWrite_cases (addr width : Nat) (v : Word) (s : State) :
    (∃ r, hostWrite addr width v s = record r s) ∨
    hostWrite addr width v s = record .written (writeCmd v s) ∨
    (addr = Config.cheBase + 8 ∧ width = 8 ∧ hostWrite addr width v s = record .written { s with data := v }) := by
  unfold hostWrite
  cases window : windowOffset addr with
  | none => exact .inl ⟨_, rfl⟩
  | some off =>
    cases adm : admitted off width with
    | false =>
      simp only [memWrite_refused adm]
      exact .inl ⟨_, rfl⟩
    | true =>
      simp only [memWrite_admitted adm]
      simp only [admitted, Bool.and_eq_true, decide_eq_true_eq] at adm
      obtain ⟨width8, aligned⟩ := adm
      cases reg : regAt off with
      | cmd => exact .inr (.inl rfl)
      | data =>
        refine .inr (.inr ⟨?_, width8, rfl⟩)
        rw [addr_of_windowOffset window, eq_eight_of_regAt_data off reg aligned]
        rfl
      | status => exact .inl ⟨_, rfl⟩
      | errcode => exact .inl ⟨_, rfl⟩
      | config => exact .inl ⟨_, rfl⟩
      | len => exact .inl ⟨_, rfl⟩
      | reserved => exact .inl ⟨_, rfl⟩
      | digest k => exact .inl ⟨_, rfl⟩

/-! ### The step -/

theorem stepped_of_hostWrite {s : State} {addr width : Nat} {v : Word} {rest : List Event}
    (agenda : s.agenda = .write addr width v :: rest) : Stepped s (hostWrite addr width v { s with agenda := rest }) := by
  rcases hostWrite_cases addr width v { s with agenda := rest } with ⟨r, eq⟩ | eq | ⟨rfl, rfl, eq⟩
  · exact eq ▸ .answered rest r
  · rw [eq, writeCmd]
    split
    · next busy => exact .overran busy
    · next idle => exact .accepted (Bool.eq_false_iff.2 idle)
  · exact eq ▸ .wroteData agenda

theorem stepped_of_pollStatus (s : State) (rest : List Event) : Stepped s (pollStatus { s with agenda := rest }) := by
  unfold pollStatus
  split
  · exact .answered _ _
  · exact .answered _ _

theorem stepped_of_engineNext {s t : State} {rest : List Event} (turn : s.engineNext rest) (h : step s = .next t) :
    Stepped s t := by
  rw [step_of_engineNext turn] at h
  cases busy : s.busy with
  | false =>
    rw [engineTurn_of_idle (s := { s with agenda := rest }) busy] at h
    cases h
    exact .idled turn busy
  | true =>
    rw [engineTurn_of_busy (s := { s with agenda := rest }) busy] at h
    obtain ⟨u, effect, rfl⟩ := engineStep_effect h
    exact .executed turn busy effect

/-- Everything a step that answers a next state does. -/
theorem stepped_of_step {s t : State} (h : step s = .next t) : Stepped s t := by
  cases agenda : s.agenda with
  | nil => exact stepped_of_engineNext (.inr ⟨agenda, rfl⟩) h
  | cons e rest =>
    cases e with
    | engine => exact stepped_of_engineNext (.inl agenda) h
    | read addr width =>
      rw [step_of_agenda_cons agenda] at h
      obtain ⟨r, eq⟩ := hostRead_eq_record addr width { s with agenda := rest }
      cases h
      exact eq ▸ .answered rest r
    | write addr width v =>
      rw [step_of_agenda_cons agenda] at h
      cases h
      exact stepped_of_hostWrite agenda
    | wait =>
      rw [step_of_agenda_cons agenda] at h
      cases h
      exact stepped_of_pollStatus s rest
    | reset =>
      rw [step_of_agenda_cons agenda] at h
      cases h
      exact .reset agenda

/-! ### Loops keep what one round keeps -/

theorem absorbBytes_keeps {P : State → Prop} (keep : ∀ b s, P s → P (absorbByte b s)) (bs : List Byte) :
    ∀ {s : State}, P s → P (absorbBytes bs s) := by
  induction bs with
  | nil => exact fun h => h
  | cons b bs ih => exact fun h => ih (keep b _ h)

theorem padLoop_keeps {P : State → Prop} (keep : ∀ seed s, P s → P (padOnce seed s)) (n : Nat) :
    ∀ {seed : Word} {s : State}, P s → P (padLoop n seed s) := by
  induction n with
  | zero => exact fun h => h
  | succ n ih =>
    intro seed s h
    rw [padLoop]
    split
    · exact h
    · exact ih (keep _ _ h)

theorem padded_keeps {P : State → Prop} (keep : ∀ seed s, P s → P (padOnce seed s)) {s : State} (h : P s) : P (padded s) := by
  unfold padded
  split
  · exact h
  · exact padLoop_keeps keep _ h

/-! ### What an engine step leaves unchanged (10_state.md R22, R25, R31, R33, R34) -/

section Frame

variable {s u : State} {r : Except Illegal Instr}

/-- No command writes the pending command, `DATA` or the outside world. -/
theorem Effect.frame (h : Effect s r u) :
    u.pcmd = s.pcmd ∧ u.pdata = s.pdata ∧ u.data = s.data ∧ u.agenda = s.agenda ∧ u.replies = s.replies := by
  cases h with
  | word => rw [absorbBytes_frame]; exact ⟨rfl, rfl, rfl, rfl, rfl⟩
  | finalized => rw [padded_frame]; exact ⟨rfl, rfl, rfl, rfl, rfl⟩
  | _ => exact ⟨rfl, rfl, rfl, rfl, rfl⟩

/-- Only INIT writes `OUTBITS` and `OW`. -/
theorem Effect.outbits_ow (h : Effect s r u) (noInit : ∀ ob, r ≠ .ok (.init ob)) : u.outbits = s.outbits ∧ u.ow = s.ow := by
  cases h with
  | rejected | opened => exact absurd rfl (noInit _)
  | word => rw [absorbBytes_frame]; exact ⟨rfl, rfl⟩
  | finalized => rw [padded_frame]; exact ⟨rfl, rfl⟩
  | _ => exact ⟨rfl, rfl⟩

/-- Only FINALIZE in an open context writes `DIG`. -/
theorem Effect.dig (h : Effect s r u) : u.dig = s.dig ∨ (r = .ok .finalize ∧ s.phase = .absorb) := by
  cases h with
  | finalized phase => exact .inr ⟨rfl, phase⟩
  | word => rw [absorbBytes_frame]; exact .inl rfl
  | _ => exact .inl rfl

/-- FINALIZE and NOP do not write `SUM`. -/
theorem Effect.sum (h : Effect s r u) (noSum : r = .ok .finalize ∨ r = .ok .nop) : u.sum = s.sum := by
  cases h with
  | ignored | misplaced | illegal => rfl
  | finalized => rw [padded_frame]; rfl
  | rejected | opened | byte | word => simp at noSum

end Frame

/-- Settles O28: every command is an effect and the end of a step (`exec_effect`), and the end of a step changes `BUSY`, `OVR`,
`PHASE` and `ERRCODE` only. -/
theorem commandFrame : Obligations.CommandFrame := by
  intro i s t h
  obtain ⟨u, effect, rfl⟩ := exec_effect h
  obtain ⟨pcmd, pdata, data, agenda, replies⟩ := effect.frame
  rw [endStep_pcmd, endStep_pdata, endStep_data, endStep_agenda, endStep_replies, endStep_outbits, endStep_ow, endStep_dig,
    endStep_sum]
  refine ⟨pcmd, pdata, data, agenda, replies, endStep_busy u, endStep_ovr u, fun noInit => ?_,
    fun noFinalize => ?_, fun noSum => ?_⟩
  · exact effect.outbits_ow fun ob eq => noInit ob (Except.ok.inj eq)
  · exact effect.dig.resolve_right fun ⟨eq, _⟩ => noFinalize (Except.ok.inj eq)
  · exact effect.sum (noSum.imp (congrArg _) (congrArg _))

/-- Settles O26: of everything a step does (`stepped_of_step`), only reset and the effect of FINALIZE write `DIG`. -/
theorem onlyFinalizeWritesDigest : Obligations.OnlyFinalizeWritesDigest := by
  intro s t h changed
  cases stepped_of_step h with
  | reset agenda => exact .inl ⟨_, agenda⟩
  | @executed rest u turn busy effect =>
    rw [endStep_dig] at changed
    obtain ⟨decoded, phase⟩ := effect.dig.resolve_left changed
    exact .inr ⟨⟨rest, turn⟩, busy, phase, decoded⟩
  | _ => exact absurd rfl changed

/-- Settles O27: of everything a step does (`stepped_of_step`), only reset and the write to `DATA` change it. -/
theorem onlyHostWritesData : Obligations.OnlyHostWritesData := by
  intro s t h changed
  cases stepped_of_step h with
  | reset agenda => exact .inl ⟨_, agenda⟩
  | wroteData agenda => exact .inr ⟨_, _, agenda, rfl⟩
  | executed _ _ effect =>
    obtain ⟨_, _, data, _, _⟩ := effect.frame
    exact absurd (by rw [endStep_data, data]) changed
  | _ => exact absurd rfl changed

/-! ## Reset (10_state.md R42, 70_reset_and_hazards.md R170, R173) -/

theorem regValue_resetMachine (r : Reg) (s : State) : regValue r (resetMachine s) = 0 := by
  have closed : (resetMachine s).phase ≠ .done := by rw [resetMachine_phase]; decide
  cases r with
  | digest k => rw [regValue, digestWord, if_neg (not_and_of_not_left _ closed)]
  | status =>
    rw [regValue, statusWord, resetMachine_long, resetMachine_phase, resetMachine_busy]
    decide
  | config =>
    rw [regValue, configWord, resetMachine_ow, resetMachine_outbits]
    decide
  | _ => rfl

theorem admitted_multiple (k : Nat) : admitted (BitVec.ofNat 7 (8 * k)) 8 = true := by
  rw [admitted, BitVec.toNat_ofNat, decide_eq_true rfl, Bool.true_and, decide_eq_true_eq]
  omega

/-- Settles O59: the reset state is itself the state after a reset event, and `resetMachine` writes every field from it. -/
theorem resetValues : Obligations.ResetValues := by
  unfold Obligations.ResetValues
  intro atReset
  have values (s : State) : atReset (resetMachine s) := by
    refine ⟨rfl, rfl, rfl, rfl, rfl, rfl, rfl, rfl, rfl, rfl, rfl, rfl, rfl, fun k _ => ⟨?_, ?_⟩, fun k _ => ?_⟩
    · exact Bank.cell_replicate 0 k
    · exact Bank.cell_replicate 0 k
    · rw [memRead_admitted (admitted_multiple k), regValue_resetMachine]
  exact ⟨values State.reset, fun s rest agenda => ⟨_, step_of_agenda_cons agenda, values _, rfl, rfl⟩⟩

end Sys2Proof.Machine

namespace Sys2Proof.Machine

/-! ## Tame amplitudes (10_state.md R40, 44_complex_state_normalizer.md R131) -/

/-- The four logical snapshots are the four banks. -/
theorem forall_hist_iff (P : Amps → Prop) (s : State) : (∀ j, j < 4 → P (s.hist j)) ↔ ∀ v ∈ s.hb.cells, P v := by
  constructor
  · intro each v hv
    obtain ⟨i, hi, rfl⟩ := (Bank.mem_cells_iff s.hb v).1 hv
    have ring : (s.hptr.toNat + (i + 4 - s.hptr.toNat) % 4) % 4 = i % 4 := by omega
    have logical := each ((i + 4 - s.hptr.toNat) % 4) (Nat.mod_lt _ (by decide))
    rwa [State.hist, ← Bank.cell_mod, ring, Bank.cell_mod] at logical
  · exact fun all j _ => all _ (List.getElem_mem _)

/-- A state is tame when its walk is. -/
theorem tame_iff_walkOf (s : State) : s.Tame ↔ (walkOf s).Tame := by
  rw [State.Tame, ← forall_hist_iff]
  simp only [Bank.tame_iff_upTo]
  constructor
  · exact fun ⟨amps, hist⟩ => ⟨amps, hist 0 (by decide), hist 1 (by decide), hist 2 (by decide), hist 3 (by decide)⟩
  · rintro ⟨amps, h0, h1, h2, h3⟩
    refine ⟨amps, fun j hj => ?_⟩
    interval_cases j
    · exact h0
    · exact h1
    · exact h2
    · exact h3

/-- One evolution step keeps the walk tame, so absorbing a byte does. -/
theorem absorbByte_tame (b : Byte) (s : State) (h : s.Tame) : (absorbByte b s).Tame := by
  rw [tame_iff_walkOf, walkOf_absorbByte]
  exact walkStep_tame ((tame_iff_walkOf s).1 h) b _

theorem padOnce_tame (seed : Word) (s : State) (h : s.Tame) : (padOnce seed s).Tame := by
  rw [tame_iff_walkOf, walkOf_padOnce]
  exact walkStep_tame ((tame_iff_walkOf s).1 h) _ _

/-- A bank of equal tame vectors, and one of them as the vector. -/
theorem tame_of_replicate {s : State} {v : Amps} (tame : v.tame) (amps : s.amps = v) (hb : s.hb = Bank.replicate _ v) :
    s.Tame := by
  refine ⟨amps ▸ tame, fun u hu => ?_⟩
  rw [hb] at hu
  exact List.eq_of_mem_replicate hu ▸ tame

theorem initialAmps_tame : initialAmps.tame := (Bank.tame_iff_upTo _).2 initialAmps_upTo_two

theorem zeroAmps_tame : Bank.tame (Bank.replicate _ Cplx.zero) := fun _ hz => List.eq_of_mem_replicate hz ▸ Cplx.upTo_zero

theorem resetMachine_tame (s : State) : (resetMachine s).Tame := tame_of_replicate zeroAmps_tame rfl rfl

/-- Settles O41: both states hold one tame vector five times. -/
theorem tameAtResetAndInit : Obligations.TameAtResetAndInit :=
  ⟨resetMachine_tame State.reset, fun _ => tame_of_replicate initialAmps_tame rfl rfl⟩

theorem Effect.tame {s u : State} {r : Except Illegal Instr} (h : Effect s r u) (tame : s.Tame) : u.Tame := by
  cases h with
  | opened => exact tame_of_replicate initialAmps_tame rfl rfl
  | byte => exact absorbByte_tame _ s tame
  | word => exact absorbBytes_keeps absorbByte_tame _ tame
  | finalized =>
    have walked : (padded s).Tame := padded_keeps padOnce_tame tame
    exact walked
  | ignored | misplaced | illegal | rejected => exact tame

theorem endStep_tame {s : State} (h : s.Tame) : (endStep s).Tame := by
  rwa [State.Tame, endStep_amps, endStep_hb]

/-- Settles O40: of everything a step does (`stepped_of_step`), reset and a legal INIT write tame vectors, and a byte, absorbed or
padding, is one step of a walk, which stays tame (`walkStep_tame`). -/
theorem tameKeptByEveryStep : Obligations.TameKeptByEveryStep := by
  intro s t tame h
  cases stepped_of_step h with
  | reset => exact resetMachine_tame _
  | executed _ _ effect => exact endStep_tame (effect.tame tame)
  | answered | accepted | overran | wroteData | idled => exact tame

/-! ## The control state's bookkeeping -/

/-- Settles O56. -/
theorem coherentAtReset : Obligations.CoherentAtReset where
  errcode_iff := by decide
  outbits_legal := .inl rfl
  ow_eq := rfl
  context_legal := fun context => absurd context (by decide)
  ovr_pending := nofun
  short_pos := fun _ => by decide
  short_sum := fun _ => by decide
  done_long := nofun
  done_words := nofun
  absorb_acc := nofun

section Coherent

variable {s : State}

theorem legalOutbits_iff (ob : BitVec 16) : legalOutbits ob = true ↔ ob.toNat % 64 = 0 ∧ 64 ≤ ob.toNat ∧ ob.toNat ≤ 512 := by
  simp only [legalOutbits, Bool.and_eq_true, decide_eq_true_eq, and_assoc]

theorem raiseErr_coherent (h : s.Coherent) {c : ErrCode} (code : c ≠ .none) : (raiseErr c s).Coherent where
  errcode_iff := iff_of_true code rfl
  outbits_legal := h.outbits_legal
  ow_eq := h.ow_eq
  context_legal := nofun
  ovr_pending := h.ovr_pending
  short_pos := h.short_pos
  short_sum := h.short_sum
  done_long := nofun
  done_words := nofun
  absorb_acc := nofun

theorem rejectConfig_coherent (h : s.Coherent) : (rejectConfig s).Coherent where
  errcode_iff := iff_of_true (by rw [rejectConfig_errcode]; decide) rfl
  outbits_legal := .inl rfl
  ow_eq := by rw [rejectConfig_ow, rejectConfig_outbits]; rfl
  context_legal := nofun
  ovr_pending := h.ovr_pending
  short_pos := h.short_pos
  short_sum := h.short_sum
  done_long := nofun
  done_words := nofun
  absorb_acc := nofun

theorem openContext_coherent (h : s.Coherent) {ob : BitVec 16} (legal : legalOutbits ob = true) :
    (openContext ob s).Coherent where
  errcode_iff := iff_of_false (absurd rfl) nofun
  outbits_legal := .inr legal
  ow_eq := by
    obtain ⟨-, -, high⟩ := (legalOutbits_iff ob).1 legal
    rw [openContext_ow, openContext_outbits, BitVec.toNat_ofNat, Nat.mod_eq_of_lt (by omega)]
  context_legal := fun _ => legal
  ovr_pending := h.ovr_pending
  short_pos := fun _ => by rw [openContext_pos]; decide
  short_sum := fun _ => Nat.zero_le _
  done_long := nofun
  done_words := nofun
  absorb_acc := fun _ => rfl

/-- Below 64 the position counts up without wrapping (10_state.md R29). -/
theorem toNat_pos_succ {pos : Word} (short : pos.toNat < 64) : (pos + 1).toNat = pos.toNat + 1 := by
  rw [BitVec.toNat_add]
  exact Nat.mod_eq_of_lt (by rw [show (1 : Word).toNat = 1 from rfl]; omega)

/-- After a byte that leaves `LONG` at 0 the position is still below 64 (10_state.md R30). -/
theorem State.Coherent.pos_succ (h : s.Coherent) (short : (s.long || decide (s.pos + 1 = 64)) = false) :
    s.long = false ∧ (s.pos + 1).toNat = s.pos.toNat + 1 ∧ s.pos.toNat + 1 < 64 := by
  obtain ⟨long, notLast⟩ := Bool.or_eq_false_iff.1 short
  have low := h.short_pos long
  have succ := toNat_pos_succ low
  have : (s.pos + 1).toNat ≠ 64 := fun last => of_decide_eq_false notLast (BitVec.eq_of_toNat_eq last)
  exact ⟨long, succ, by omega⟩

/-- Absorbing a byte adds at most 255 to `SUM` and 1 to `POS` (10_state.md R31). -/
theorem absorbByte_coherent (b : Byte) (s : State) (h : s.Coherent) : (absorbByte b s).Coherent where
  errcode_iff := h.errcode_iff
  outbits_legal := h.outbits_legal
  ow_eq := h.ow_eq
  context_legal := h.context_legal
  ovr_pending := h.ovr_pending
  short_pos := fun short => by
    obtain ⟨-, succ, low⟩ := h.pos_succ short
    exact succ ▸ low
  short_sum := fun short => by
    obtain ⟨long, succ, low⟩ := h.pos_succ short
    have sum := h.short_sum long
    have byte := b.isLt
    rw [absorbByte_sum, absorbByte_pos, succ, BitVec.toNat_add, BitVec.toNat_setWidth]
    omega
  done_long := fun done => by rw [absorbByte_long, h.done_long done]; rfl
  done_words := h.done_words
  absorb_acc := h.absorb_acc

/-- The padding loop ends with `LONG` set (41_preprocessor.md R104). -/
theorem padLoop_long (n : Nat) : ∀ (seed : Word) (s : State), s.pos.toNat < 64 → s.pos.toNat + n = 64 →
    (padLoop n seed s).long = true := by
  induction n with
  | zero => intro _ _ low count; omega
  | succ n ih =>
    intro seed s low count
    rw [padLoop]
    split
    · assumption
    · have succ := toNat_pos_succ low
      rcases Nat.eq_zero_or_pos n with rfl | more
      · have last : s.pos + 1 = 64 := BitVec.eq_of_toNat_eq (by rw [succ]; exact count)
        rw [padLoop, padOnce_long, decide_eq_true last, Bool.or_true]
      · exact ih _ _ (by rw [padOnce_pos, succ]; omega) (by rw [padOnce_pos, succ]; omega)

theorem padCount_of_lt {pos : Word} (low : pos.toNat < 64) : pos.toNat + padCount pos = 64 := by
  rw [padCount, BitVec.toNat_sub_of_le (BitVec.le_def.2 (Nat.le_of_lt_succ low)), show (63 : Word).toNat = 63 from rfl]
  omega

theorem padded_long (short_pos : s.long = false → s.pos.toNat < 64) : (padded s).long = true := by
  cases long : s.long with
  | true => rwa [padded_of_long long]
  | false =>
    have low := short_pos long
    rw [padded_of_short long]
    exact padLoop_long _ _ s low (padCount_of_lt low)

/-- FINALIZE publishes `OW` words, and 0 from there on (46_output_squeezer.md R147). -/
theorem publish_padded_coherent (h : s.Coherent) (phase : s.phase = .absorb) (acc : Bank Config.aw Word) :
    (publish acc (padded s)).Coherent := by
  have long : (padded s).long = true := padded_long h.short_pos
  have legal := h.context_legal (.inl phase)
  have clear : s.errcode = .none := by
    by_contra error
    exact nomatch phase.symm.trans (h.errcode_iff.1 error)
  rw [padded_frame] at long ⊢
  exact {
    errcode_iff := iff_of_false (absurd clear) nofun
    outbits_legal := .inr legal
    ow_eq := h.ow_eq
    context_legal := fun _ => legal
    ovr_pending := h.ovr_pending
    short_pos := fun short => nomatch short.symm.trans long
    short_sum := fun short => nomatch short.symm.trans long
    done_long := fun _ => long
    done_words := fun _ k above low => (cell_squeezeInto acc low).trans (if_neg (Nat.not_lt.2 above))
    absorb_acc := nofun }

theorem Effect.coherent {u : State} {r : Except Illegal Instr} (h : Effect s r u) (coherent : s.Coherent) : u.Coherent := by
  cases h with
  | ignored => exact coherent
  | misplaced | illegal => exact raiseErr_coherent coherent (by decide)
  | rejected => exact rejectConfig_coherent coherent
  | opened legal => exact openContext_coherent coherent legal
  | byte => exact absorbByte_coherent _ s coherent
  | word => exact absorbBytes_keeps absorbByte_coherent _ coherent
  | finalized phase => exact publish_padded_coherent coherent phase _

theorem resolveOverrun_coherent (h : s.Coherent) : (resolveOverrun s).Coherent := by
  unfold resolveOverrun
  split
  · split
    · exact { h with ovr_pending := nofun }
    · exact { raiseErr_coherent h (c := .overrun) (by decide) with ovr_pending := nofun }
  · exact h

/-- The end of a step lowers `BUSY`, and has resolved the overrun. -/
theorem endStep_coherent (h : s.Coherent) : (endStep s).Coherent :=
  { resolveOverrun_coherent h with ovr_pending := fun latched => nomatch (endStep_ovr s).symm.trans latched }

theorem resetMachine_coherent (s : State) : (resetMachine s).Coherent := { coherentAtReset with }

end Coherent

/-- Settles O55: of everything a step does (`stepped_of_step`), the host's accesses and the turn change no field of the bookkeeping
but `BUSY` and `OVR`, and an engine step is an effect and its end, each of which keeps it. -/
theorem coherentKeptByEveryStep : Obligations.CoherentKeptByEveryStep := by
  intro s t h next
  cases stepped_of_step next with
  | answered | wroteData | idled => exact { h with }
  | accepted => exact { h with ovr_pending := fun _ => rfl }
  | overran busy => exact { h with ovr_pending := fun _ => busy }
  | reset => exact resetMachine_coherent _
  | executed _ _ effect =>
    exact endStep_coherent (effect.coherent { h with })

end Sys2Proof.Machine

namespace Sys2Proof.Machine

/-! ## Which bank holds which snapshot (10_state.md R27, R39) -/

/-- `s` with its history in other banks. -/
def State.withRing (s : State) (hb : Bank Config.hd Amps) (hptr : BitVec 2) : State := { s with hb := hb, hptr := hptr }

/-- `f` does the same wherever the history is, and leaves it there. -/
def IgnoresRing (f : State → State) : Prop := ∀ s hb hptr, f (s.withRing hb hptr) = (f s).withRing hb hptr

/-- Two states with the same logical history are one state with two rings. -/
theorem sameLogical_iff (s t : State) :
    SameLogical s t ↔ ∃ hb hptr, t = s.withRing hb hptr ∧ ∀ j, j < 4 → s.hist j = (s.withRing hb hptr).hist j := by
  constructor
  · rintro ⟨same, hist⟩
    exact ⟨t.hb, t.hptr, same, fun j hj => (hist j hj).trans (congrArg (·.hist j) same)⟩
  · rintro ⟨hb, hptr, rfl, hist⟩
    exact ⟨rfl, hist⟩

theorem SameLogical.refl (s : State) : SameLogical s s := ⟨rfl, fun _ _ => rfl⟩

theorem IgnoresRing.sameLogical {f : State → State} (hf : IgnoresRing f) {s t : State} (h : SameLogical s t) :
    SameLogical (f s) (f t) := by
  obtain ⟨hb, hptr, rfl, hist⟩ := (sameLogical_iff s t).1 h
  have kept : f s = (f s).withRing s.hb s.hptr := hf s s.hb s.hptr
  refine (sameLogical_iff _ _).2 ⟨hb, hptr, hf s hb hptr, fun j hj => ?_⟩
  calc (f s).hist j = s.hist j := by rw [kept]; rfl
    _ = (s.withRing hb hptr).hist j := hist j hj

/-- What is read off a state without its ring is the same in both. -/
theorem SameLogical.congr {s t : State} (h : SameLogical s t) {α : Type} (f : State → α)
    (hf : ∀ s hb hptr, f (State.withRing s hb hptr) = f s) : f t = f s := by
  obtain ⟨hb, hptr, rfl, -⟩ := (sameLogical_iff s t).1 h
  exact hf s hb hptr

/-! ### The operations that do not touch the ring -/

theorem ignoresRing_raiseErr (c : ErrCode) : IgnoresRing (raiseErr c) := fun _ _ _ => rfl

theorem ignoresRing_rejectConfig : IgnoresRing rejectConfig := fun _ _ _ => rfl

theorem ignoresRing_publish (acc : Bank Config.aw Word) : IgnoresRing (publish acc) := fun _ _ _ => rfl

theorem ignoresRing_record (r : BusReply) : IgnoresRing (record r) := fun _ _ _ => rfl

theorem ignoresRing_setAgenda (agenda : List Event) : IgnoresRing fun s => { s with agenda := agenda } := fun _ _ _ => rfl

theorem ignoresRing_endStep : IgnoresRing endStep := by
  intro s hb hptr
  rw [endStep_eq, endStep_eq]
  rfl

theorem IgnoresRing.ite {c : State → Bool} {f g : State → State} (hc : ∀ s hb hptr, c (s.withRing hb hptr) = c s)
    (hf : IgnoresRing f) (hg : IgnoresRing g) : IgnoresRing fun s => if c s then f s else g s := by
  intro s hb hptr
  simp only [hc, hf s hb hptr, hg s hb hptr]
  split
  · rfl
  · rfl

theorem ignoresRing_pollStatus : IgnoresRing pollStatus :=
  .ite (c := State.busy) (fun _ _ _ => rfl) (fun _ _ _ => rfl) (fun _ _ _ => rfl)

/-- No register shows the ring. -/
theorem regValue_withRing (r : Reg) (s : State) (hb : Bank Config.hd Amps) (hptr : BitVec 2) :
    regValue r (s.withRing hb hptr) = regValue r s := by
  cases r <;> rfl

theorem ignoresRing_hostRead (addr width : Nat) : IgnoresRing (hostRead addr width) := by
  intro s hb hptr
  unfold hostRead
  cases windowOffset addr with
  | none => rfl
  | some off =>
    cases adm : admitted off width with
    | false => simp only [memRead_refused adm]; rfl
    | true => simp only [memRead_admitted adm, regValue_withRing]; rfl

theorem ignoresRing_writeCmd (v : Word) : IgnoresRing (writeCmd v) :=
  .ite (c := State.busy) (fun _ _ _ => rfl) (fun _ _ _ => rfl) (fun _ _ _ => rfl)

theorem ignoresRing_writeReg (r : Reg) (v : Word) : IgnoresRing (writeReg r v) := by
  cases r with
  | cmd => exact ignoresRing_writeCmd v
  | _ => exact fun _ _ _ => rfl

theorem ignoresRing_hostWrite (addr width : Nat) (v : Word) : IgnoresRing (hostWrite addr width v) := by
  intro s hb hptr
  unfold hostWrite
  cases windowOffset addr with
  | none => rfl
  | some off =>
    cases adm : admitted off width with
    | false => simp only [memWrite_refused adm]; rfl
    | true => simp only [memWrite_admitted adm, ignoresRing_writeReg (regAt off) v s hb hptr]; rfl

/-! ### The operations that read or write the ring -/

section SameLogical

variable {s t : State}

/-- An evolution step reads the logical history and appends to it. -/
theorem evolveStep_sameLogical (b : Byte) (i : Word) (h : SameLogical s t) : SameLogical (evolveStep b i s) (evolveStep b i t) := by
  obtain ⟨hb, hptr, rfl, hist⟩ := (sameLogical_iff s t).1 h
  have appended : stabilized b i s.amps (s.hist 0) (s.hist 2) (s.hist 3) =
      stabilized b i s.amps ((s.withRing hb hptr).hist 0) ((s.withRing hb hptr).hist 2) ((s.withRing hb hptr).hist 3) := by
    rw [← hist 0 (by decide), ← hist 2 (by decide), ← hist 3 (by decide)]
  constructor
  · have amps : (evolveStep b i (s.withRing hb hptr)).amps = (evolveStep b i s).amps := congrArg (periodic i) appended.symm
    rw [evolveStep_frame b i (s.withRing hb hptr), amps]
    rfl
  · intro j hj
    rw [hist_evolveStep b i s hj, hist_evolveStep b i _ hj, appended]
    split
    · rfl
    · exact hist (j + 1) (by omega)

theorem absorbByte_sameLogical (b : Byte) (h : SameLogical s t) : SameLogical (absorbByte b s) (absorbByte b t) := by
  have evolved := evolveStep_sameLogical b s.pos h
  obtain ⟨hb, hptr, rfl, -⟩ := (sameLogical_iff s t).1 h
  have counted : IgnoresRing fun u => advancePos { u with sum := u.sum + b.setWidth 64 } := fun _ _ _ => rfl
  exact counted.sameLogical evolved

theorem absorbBytes_sameLogical (bs : List Byte) : ∀ {s t : State}, SameLogical s t →
    SameLogical (absorbBytes bs s) (absorbBytes bs t) := by
  induction bs with
  | nil => exact fun h => h
  | cons b bs ih => exact fun h => ih (absorbByte_sameLogical b h)

theorem padOnce_sameLogical (seed : Word) (h : SameLogical s t) : SameLogical (padOnce seed s) (padOnce seed t) := by
  have evolved := evolveStep_sameLogical (padByte seed) s.pos h
  obtain ⟨hb, hptr, rfl, -⟩ := (sameLogical_iff s t).1 h
  have counted : IgnoresRing advancePos := fun _ _ _ => rfl
  exact counted.sameLogical evolved

theorem SameLogical.long (h : SameLogical s t) : t.long = s.long := h.congr State.long fun _ _ _ => rfl

theorem SameLogical.phase (h : SameLogical s t) : t.phase = s.phase := h.congr State.phase fun _ _ _ => rfl

theorem SameLogical.amps (h : SameLogical s t) : t.amps = s.amps := h.congr State.amps fun _ _ _ => rfl

theorem padLoop_sameLogical (n : Nat) : ∀ (seed : Word) {s t : State}, SameLogical s t →
    SameLogical (padLoop n seed s) (padLoop n seed t) := by
  induction n with
  | zero => exact fun _ {_ _} h => h
  | succ n ih =>
    intro seed s t h
    rw [padLoop, padLoop, h.long]
    split
    · exact h
    · exact ih _ (padOnce_sameLogical _ h)

theorem padded_sameLogical (h : SameLogical s t) : SameLogical (padded s) (padded t) := by
  have padding : padTail t = padLoop (padCount s.pos) (padSeed s) t := by
    obtain ⟨hb, hptr, rfl, -⟩ := (sameLogical_iff s t).1 h
    rfl
  rw [padded, padded, h.long, padding]
  split
  · exact h
  · exact padLoop_sameLogical _ _ h

/-- `InitState` puts every history at the same place. -/
theorem openContext_sameLogical (ob : BitVec 16) (h : SameLogical s t) : SameLogical (openContext ob s) (openContext ob t) := by
  obtain ⟨hb, hptr, rfl, -⟩ := (sameLogical_iff s t).1 h
  exact .refl _

theorem resetMachine_sameLogical (h : SameLogical s t) : SameLogical (resetMachine s) (resetMachine t) := by
  obtain ⟨hb, hptr, rfl, -⟩ := (sameLogical_iff s t).1 h
  exact .refl _

/-! ### The engine step and the system step -/

theorem endStep_related (h : SameLogical s t) : OutcomesRelated SameLogical (.next (endStep s)) (.next (endStep t)) :=
  ignoresRing_endStep.sameLogical h

theorem raiseErr_related (c : ErrCode) (h : SameLogical s t) :
    OutcomesRelated SameLogical (.next (endStep (raiseErr c s))) (.next (endStep (raiseErr c t))) :=
  endStep_related ((ignoresRing_raiseErr c).sameLogical h)

theorem inContext_related {f : State → Host.Outcome State Fault Refusal} (h : SameLogical s t)
    (effect : OutcomesRelated SameLogical (f s) (f t)) : OutcomesRelated SameLogical (inContext s f) (inContext t f) := by
  cases phase : s.phase with
  | absorb => rwa [inContext_absorb phase, inContext_absorb (h.phase.trans phase)]
  | idle => rw [inContext_idle phase, inContext_idle (h.phase.trans phase)]; exact raiseErr_related _ h
  | done => rw [inContext_done phase, inContext_done (h.phase.trans phase)]; exact raiseErr_related _ h
  | error => rw [inContext_error phase, inContext_error (h.phase.trans phase)]; exact endStep_related h

theorem execAbsorb_related (b : Byte) (h : SameLogical s t) : OutcomesRelated SameLogical (execAbsorb b s) (execAbsorb b t) := by
  refine inContext_related h ?_
  exact endStep_related (absorbByte_sameLogical b h)

theorem execAbsorbw_related (cnt : Nat) (h : SameLogical s t) :
    OutcomesRelated SameLogical (execAbsorbw cnt s) (execAbsorbw cnt t) := by
  have samePdata : t.pdata = s.pdata := h.congr State.pdata fun _ _ _ => rfl
  refine inContext_related h ?_
  rw [samePdata]
  exact endStep_related (absorbBytes_sameLogical _ h)

theorem execFinalize_related (h : SameLogical s t) : OutcomesRelated SameLogical (execFinalize s) (execFinalize t) := by
  refine inContext_related h ?_
  have walked := padded_sameLogical h
  rw [walked.amps]
  cases compress (padded s).amps with
  | none => exact rfl
  | some acc => exact endStep_related ((ignoresRing_publish acc).sameLogical walked)

theorem exec_related (i : Instr) (h : SameLogical s t) : OutcomesRelated SameLogical (exec i s) (exec i t) := by
  cases i with
  | nop => exact endStep_related h
  | init ob =>
    refine endStep_related ?_
    split
    · exact openContext_sameLogical ob h
    · exact ignoresRing_rejectConfig.sameLogical h
  | absorb b => exact execAbsorb_related b h
  | absorbw cnt => exact execAbsorbw_related cnt h
  | finalize => exact execFinalize_related h

theorem execIllegal_related (h : SameLogical s t) : OutcomesRelated SameLogical (execIllegal s) (execIllegal t) := by
  refine endStep_related ?_
  rw [h.phase]
  split
  · exact h
  · exact (ignoresRing_raiseErr .badCmd).sameLogical h

theorem engineTurn_related (h : SameLogical s t) : OutcomesRelated SameLogical (engineTurn s) (engineTurn t) := by
  have sameBusy : t.busy = s.busy := h.congr State.busy fun _ _ _ => rfl
  have samePending : t.pcmd = s.pcmd := h.congr State.pcmd fun _ _ _ => rfl
  rw [engineTurn, engineTurn, sameBusy, engineStep, engineStep, samePending]
  split
  · split
    · exact exec_related _ h
    · exact execIllegal_related h
  · exact h

theorem runEvent_related (e : Event) (h : SameLogical s t) : OutcomesRelated SameLogical (runEvent e s) (runEvent e t) := by
  cases e with
  | read addr width => exact (ignoresRing_hostRead addr width).sameLogical h
  | write addr width v => exact (ignoresRing_hostWrite addr width v).sameLogical h
  | wait => exact ignoresRing_pollStatus.sameLogical h
  | engine => exact engineTurn_related h
  | reset => exact resetMachine_sameLogical h

end SameLogical

/-- Settles O58: every operation but the evolution step, INIT and reset ignores the ring (`IgnoresRing`), and the evolution step
reads and appends to the logical history (`hist_evolveStep`). -/
theorem bankPlacementChangesNothing : Obligations.BankPlacementChangesNothing := by
  intro s t h
  have sameAgenda : t.agenda = s.agenda := h.congr State.agenda fun _ _ _ => rfl
  cases agenda : s.agenda with
  | nil =>
    rw [step_of_agenda_nil agenda, step_of_agenda_nil (sameAgenda.trans agenda)]
    exact engineTurn_related h
  | cons e rest =>
    rw [step_of_agenda_cons agenda, step_of_agenda_cons (sameAgenda.trans agenda)]
    exact runEvent_related e ((ignoresRing_setAgenda rest).sameLogical h)

end Sys2Proof.Machine

namespace Sys2Proof.Machine

/-! ## The register window (20_memory.md) -/

/-- The register map of 20_memory.md R46 by slot: the register at the offsets `8k` to `8k + 7`. -/
def slotReg : Nat → Reg
  | 0 => .cmd
  | 1 => .data
  | 2 => .status
  | 3 => .errcode
  | 4 => .config
  | 5 => .len
  | 6 => .reserved
  | 7 => .reserved
  | k + 8 => .digest (BitVec.ofNat 3 k)

/-- The register depends on the slot of the offset only. -/
theorem regAt_eq_slotReg : ∀ off : BitVec 7, regAt off = slotReg (off.toNat / 8) := by decide

theorem regAt_ofNat {off : Nat} (h : off < 128) : regAt (BitVec.ofNat 7 off) = slotReg (off / 8) := by
  rw [regAt_eq_slotReg, BitVec.toNat_ofNat, Nat.mod_eq_of_lt h]

theorem regAt_slot {k : Nat} (hk : k < 16) : regAt (BitVec.ofNat 7 (8 * k)) = slotReg k := by
  rw [regAt_ofNat (by omega), Nat.mul_div_cancel_left k (by decide)]

/-! ### The numbers the registers show (20_memory.md R46, R64) -/

/-- Fields side by side: the high one counts in units of the low one's width. -/
theorem toNat_append_fields {m n : Nat} (hi : BitVec m) (lo : BitVec n) : (hi ++ lo).toNat = lo.toNat + 2 ^ n * hi.toNat := by
  rw [BitVec.toNat_append, ← Nat.shiftLeft_add_eq_or_of_lt lo.isLt, Nat.shiftLeft_eq, Nat.add_comm, Nat.mul_comm]

theorem toNat_statusWord (s : State) :
    (statusWord s).toNat = (if s.busy then 1 else 0) + 2 * s.phase.code.toNat + 8 * (if s.long then 1 else 0) := by
  simp only [statusWord, toNat_append_fields, BitVec.toNat_ofBool, BitVec.toNat_ofNat, Bool.toNat, Bool.cond_eq_ite]
  omega

theorem toNat_errcodeWord (s : State) : (errcodeWord s).toNat = s.errcode.code.toNat :=
  BitVec.toNat_setWidth_of_le (by decide)

theorem toNat_configWord (s : State) : (configWord s).toNat = s.outbits.toNat + 65536 * s.ow.toNat := by
  simp only [configWord, toNat_append_fields, BitVec.toNat_ofNat]
  omega

theorem regValue_digest_slot {k : Nat} (hk : k < 8) (s : State) :
    regValue (slotReg (k + 8)) s = if s.phase = .done ∧ k < s.ow.toNat then s.dig.cell k else 0 := by
  rw [slotReg, regValue, digestWord, BitVec.toNat_ofNat, Nat.mod_eq_of_lt hk]

/-- No register shows the agenda. -/
theorem regValue_setAgenda (r : Reg) (s : State) (rest : List Event) : regValue r { s with agenda := rest } = regValue r s := by
  cases r <;> rfl

/-! ### Lanes (20_memory.md R53) -/

theorem toNat_lane (w : Word) (k : Nat) : (lane w k).toNat = w.toNat / 256 ^ k % 256 := by
  rw [lane, BitVec.extractLsb'_toNat, Nat.shiftRight_eq_div_pow, Nat.pow_mul]

/-- The low lanes, weighted, are the word cut to their width. -/
theorem sum_lanes (w : Word) (n : Nat) :
    ((List.range n).map fun j => (lane w j).toNat * 256 ^ j).sum = w.toNat % 256 ^ n := by
  induction n with
  | zero => rw [Nat.pow_zero, Nat.mod_one]; rfl
  | succ n ih =>
    rw [List.range_succ, List.map_append, List.sum_append, ih, List.map_singleton, List.sum_singleton, toNat_lane,
      Nat.mod_pow_succ, Nat.mul_comm]

theorem windowByte_slot {k j : Nat} (hk : k < 16) (hj : j < 8) (s : State) :
    windowByte (BitVec.ofNat 7 (8 * k + j)) s = lane (regValue (slotReg k) s) j := by
  have inside : 8 * k + j < 128 := by omega
  have slot : (8 * k + j) / 8 = k := by omega
  have byte : (8 * k + j) % 8 = j := by omega
  rw [windowByte, regAt_ofNat inside, BitVec.toNat_ofNat, Nat.mod_eq_of_lt inside, slot, byte]

/-! ### One host access (20_memory.md R45, R47 to R50) -/

theorem admitted_eq_false {off width : Nat} (h : off < 128) (refused : width ≠ 8 ∨ off % 8 ≠ 0) :
    admitted (BitVec.ofNat 7 off) width = false := by
  rw [admitted, BitVec.toNat_ofNat, Nat.mod_eq_of_lt h, Bool.and_eq_false_iff]
  exact refused.imp decide_eq_false decide_eq_false

theorem hostRead_slot {k : Nat} (hk : k < 16) (s : State) :
    hostRead (Config.cheBase + 8 * k) 8 s = record (.value (regValue (slotReg k) s)) s := by
  simp only [hostRead, windowOffset_inside (show 8 * k < 128 by omega), memRead_admitted (admitted_multiple k), regAt_slot hk]

theorem hostWrite_slot {k : Nat} (hk : k < 16) (v : Word) (s : State) :
    hostWrite (Config.cheBase + 8 * k) 8 v s = record .written (writeReg (slotReg k) v s) := by
  simp only [hostWrite, windowOffset_inside (show 8 * k < 128 by omega), memWrite_admitted (admitted_multiple k), regAt_slot hk]

theorem hostRead_refused {off width : Nat} (h : off < 128) (refused : width ≠ 8 ∨ off % 8 ≠ 0) (s : State) :
    hostRead (Config.cheBase + off) width s = record (.busError 0) s := by
  simp only [hostRead, windowOffset_inside h, memRead_refused (admitted_eq_false h refused)]

theorem hostWrite_refused {off width : Nat} (h : off < 128) (refused : width ≠ 8 ∨ off % 8 ≠ 0) (v : Word) (s : State) :
    hostWrite (Config.cheBase + off) width v s = record (.busError 0) s := by
  simp only [hostWrite, windowOffset_inside h, memWrite_refused (admitted_eq_false h refused)]

section Outside

variable {addr : Nat} (h : addr < Config.cheBase ∨ Config.cheBase + 128 ≤ addr) (width : Nat) (s : State)

include h

theorem hostRead_outside : hostRead addr width s = record .outside s := by
  simp only [hostRead, windowOffset_outside h]

theorem hostWrite_outside (v : Word) : hostWrite addr width v s = record .outside s := by
  simp only [hostWrite, windowOffset_outside h]

end Outside

/-! ### The step that performs an access -/

theorem step_setAgenda_cons (s : State) (e : Event) (rest : List Event) :
    step { s with agenda := e :: rest } = runEvent e { s with agenda := rest } :=
  step_of_agenda_cons (s := { s with agenda := e :: rest }) rfl

theorem step_read_slot {k : Nat} (hk : k < 16) (s : State) (rest : List Event) :
    step { s with agenda := .read (Config.cheBase + 8 * k) 8 :: rest } =
      .next { s with agenda := rest, replies := .value (regValue (slotReg k) s) :: s.replies } := by
  rw [step_setAgenda_cons, runEvent, hostRead_slot hk, regValue_setAgenda]
  rfl

theorem step_write_slot {k : Nat} (hk : k < 16) (v : Word) (s : State) (rest : List Event) :
    step { s with agenda := .write (Config.cheBase + 8 * k) 8 v :: rest } =
      .next (record .written (writeReg (slotReg k) v { s with agenda := rest })) := by
  rw [step_setAgenda_cons, runEvent, hostWrite_slot hk]

/-! ### The statements -/

/-- Settles O6, slot by slot of the register map. -/
theorem readShowsRegisterMap : Obligations.ReadShowsRegisterMap := by
  unfold Obligations.ReadShowsRegisterMap
  intro s k rest hk
  refine ⟨regValue (slotReg k) s, step_read_slot hk s rest, ?_⟩
  match k, hk with
  | 0, _ => rfl
  | 1, _ => rfl
  | 2, _ =>
    refine (toNat_statusWord s).trans ?_
    cases s.phase <;> rfl
  | 3, _ =>
    refine (toNat_errcodeWord s).trans ?_
    cases s.errcode <;> rfl
  | 4, _ => exact toNat_configWord s
  | 5, _ => rfl
  | 6, _ => rfl
  | 7, _ => rfl
  | k + 8, hk =>
    rw [regValue_digest_slot (by omega) s, apply_ite BitVec.toNat]
    rfl

/-- Settles O7: `DIGESTk` is slot `k + 8`, and a coherent state in DONE has its words from `OW` on 0. -/
theorem digestReadIsGated : Obligations.DigestReadIsGated := by
  unfold Obligations.DigestReadIsGated
  intro s k rest hk
  have slot : 0x40 + 8 * k = 8 * (k + 8) := by omega
  rw [slot, step_read_slot (by omega) s rest, regValue_digest_slot hk]
  exact ⟨rfl, fun coherent done above => coherent.done_words done k above hk⟩

/-- Settles O8: the eight window bytes are the register's lanes, and a word is the weighted sum of its lanes. -/
theorem windowIsLittleEndian : Obligations.WindowIsLittleEndian := by
  unfold Obligations.WindowIsLittleEndian
  intro s k hk
  have bytes : ∀ j ∈ List.range 8, (windowByte (BitVec.ofNat 7 (8 * k + j)) s).toNat * 256 ^ j =
      (lane (regValue (slotReg k) s) j).toNat * 256 ^ j :=
    fun j hj => by rw [windowByte_slot hk (List.mem_range.1 hj)]
  rw [regAt_slot hk, List.map_congr_left bytes, sum_lanes]
  exact (Nat.mod_eq_of_lt (regValue (slotReg k) s).isLt).symm

/-- Settles O9: such an access is not admitted, so both its outcome and its answer are the bus error. -/
theorem busErrorChangesNothing : Obligations.BusErrorChangesNothing := by
  unfold Obligations.BusErrorChangesNothing
  intro s off width v rest inside refused
  have adm := admitted_eq_false inside refused
  refine ⟨memRead_refused adm s, memWrite_refused adm v s, ?_, ?_⟩
  · rw [step_setAgenda_cons, runEvent, hostRead_refused inside refused]
    rfl
  · rw [step_setAgenda_cons, runEvent, hostWrite_refused inside refused]
    rfl

/-- Settles O10: the reserved offsets are slots 6 and 7. -/
theorem reservedAndOutsideOffsets : Obligations.ReservedAndOutsideOffsets := by
  unfold Obligations.ReservedAndOutsideOffsets
  intro s off addr width v rest
  constructor
  · rintro (rfl | rfl)
    · exact ⟨step_read_slot (k := 6) (by decide) s rest, step_write_slot (k := 6) (by decide) v s rest⟩
    · exact ⟨step_read_slot (k := 7) (by decide) s rest, step_write_slot (k := 7) (by decide) v s rest⟩
  · intro outside
    rw [step_setAgenda_cons, step_setAgenda_cons, runEvent, runEvent, hostRead_outside outside, hostWrite_outside outside]
    exact ⟨rfl, rfl⟩

/-- Settles O11, slot by slot: only `CMD` and `DATA` have a write effect. -/
theorem writeEffectsByOffset : Obligations.WriteEffectsByOffset := by
  unfold Obligations.WriteEffectsByOffset
  intro s k v rest hk
  rw [step_write_slot hk v s rest]
  match k, hk with
  | 0, _ =>
    rw [slotReg, writeReg, writeCmd]
    cases s.busy <;> rfl
  | 1, _ => rfl
  | 2, _ => rfl
  | 3, _ => rfl
  | 4, _ => rfl
  | 5, _ => rfl
  | 6, _ => rfl
  | 7, _ => rfl
  | k + 8, _ => rfl

end Sys2Proof.Machine

namespace Sys2Proof

/-! ## The rows of the decoder (30_encoding.md R71 to R73) -/

/-- Settles O1: `decode_encode`. -/
theorem encodeThenDecode : Obligations.EncodeThenDecode := fun _ wf => decode_encode wf

/-- What the decoder has found in a value when it answers the index: the opcode and clear reserved bits of one format, or which
kind of ILLEGAL value it is (30_encoding.md R71, R73). -/
inductive Decoded (v : Word) : Except Illegal Instr → Prop where
  | nop (opc : opcField v = 0x00#8) (clear : reservedClearN v = true) : Decoded v (.ok .nop)
  | init (opc : opcField v = 0x01#8) (clear : reservedClearC v = true) : Decoded v (.ok (.init (outbitsField v)))
  | absorb (opc : opcField v = 0x02#8) (clear : reservedClearB v = true) : Decoded v (.ok (.absorb (byteField v)))
  | absorbw (opc : opcField v = 0x03#8) (clear : reservedClearW v = true) :
      Decoded v (.ok (.absorbw ((cntm1Field v).toNat + 1)))
  | finalize (opc : opcField v = 0x04#8) (clear : reservedClearN v = true) : Decoded v (.ok .finalize)
  | reservedBit (opc : (opcField v).toNat < 5) : Decoded v (.error .reservedBit)
  | unknownOpcode (opc : 5 ≤ (opcField v).toNat) : Decoded v (.error .unknownOpcode)

/-- A defined opcode gives its command when its reserved bits are clear, and the second kind of ILLEGAL value otherwise. -/
theorem decoded_ifClear {v : Word} {clear : Bool} {i : Instr} (opc : (opcField v).toNat < 5)
    (selected : clear = true → Decoded v (.ok i)) : Decoded v (ifClear clear i) := by
  cases clear with
  | true => exact selected rfl
  | false => exact .reservedBit opc

/-- Everything the decoder can find. -/
theorem decoded_decode (v : Word) : Decoded v (decode v) := by
  unfold decode
  split
  · next opc => exact decoded_ifClear (by rw [opc]; decide) (.nop opc)
  split
  · next opc => exact decoded_ifClear (by rw [opc]; decide) (.init opc)
  split
  · next opc => exact decoded_ifClear (by rw [opc]; decide) (.absorb opc)
  split
  · next opc => exact decoded_ifClear (by rw [opc]; decide) (.absorbw opc)
  split
  · next opc => exact decoded_ifClear (by rw [opc]; decide) (.finalize opc)
  · next no0 no1 no2 no3 no4 =>
    refine .unknownOpcode ?_
    simp only [← BitVec.toNat_inj, BitVec.toNat_ofNat] at no0 no1 no2 no3 no4
    omega

/-! ### The fields as numbers (30_encoding.md R65 to R69) -/

theorem toNat_extractLsb' (v : Word) (start len : Nat) : (v.extractLsb' start len).toNat = v.toNat / 2 ^ start % 2 ^ len := by
  rw [BitVec.extractLsb'_toNat, Nat.shiftRight_eq_div_pow]

theorem toNat_opcField (v : Word) : (opcField v).toNat = v.toNat % 256 := by
  rw [opcField, toNat_extractLsb', Nat.pow_zero, Nat.div_one]
  rfl

theorem opcField_eq_iff (v : Word) (opcode : BitVec 8) : opcField v = opcode ↔ v.toNat % 256 = opcode.toNat := by
  rw [← BitVec.toNat_inj, toNat_opcField]

theorem extractLsb'_eq_zero_iff (v : Word) (start len : Nat) :
    v.extractLsb' start len = 0#len ↔ v.toNat / 2 ^ start % 2 ^ len = 0 := by
  rw [← BitVec.toNat_inj, toNat_extractLsb', BitVec.toNat_ofNat, Nat.zero_mod]

theorem reservedClearN_iff (v : Word) : reservedClearN v = true ↔ v.toNat < 2 ^ 8 := by
  rw [reservedClearN, beq_iff_eq, extractLsb'_eq_zero_iff]
  omega

theorem reservedClearC_iff (v : Word) : reservedClearC v = true ↔ v.toNat < 2 ^ 32 ∧ v.toNat / 2 ^ 8 % 2 ^ 8 = 0 := by
  rw [reservedClearC, Bool.and_eq_true, beq_iff_eq, beq_iff_eq, extractLsb'_eq_zero_iff, extractLsb'_eq_zero_iff]
  omega

theorem reservedClearB_iff (v : Word) : reservedClearB v = true ↔ v.toNat < 2 ^ 16 := by
  rw [reservedClearB, beq_iff_eq, extractLsb'_eq_zero_iff]
  omega

theorem reservedClearW_iff (v : Word) : reservedClearW v = true ↔ v.toNat < 2 ^ 11 := by
  rw [reservedClearW, beq_iff_eq, extractLsb'_eq_zero_iff]
  omega

/-- A command of format N is its opcode. -/
theorem toNat_formatN {v : Word} {opcode : BitVec 8} (opc : opcField v = opcode) (clear : reservedClearN v = true) :
    v.toNat = opcode.toNat :=
  (Nat.mod_eq_of_lt ((reservedClearN_iff v).1 clear)).symm.trans ((opcField_eq_iff v opcode).1 opc)

/-! ### A decoded value is an encoding (30_encoding.md R71, R76, R78) -/

/-- A count that the encoding holds is encoded in the field that R69 reads. -/
theorem encode_absorbw_succ (c : BitVec 3) : encode (.absorbw (c.toNat + 1)) = (c.setWidth 64 <<< 8) ||| 0x03#64 := by
  rw [encode, Nat.add_sub_cancel, BitVec.ofNat_toNat]

theorem wellFormed_absorbw_field (c : BitVec 3) : (Instr.absorbw (c.toNat + 1)).wellFormed = true := by
  have := c.isLt
  rw [Instr.wellFormed, Bool.and_eq_true, decide_eq_true_eq, decide_eq_true_eq]
  omega

/-- What the decoder finds for a command is a well-formed command and its encoding. -/
theorem Decoded.encode_eq {v : Word} {i : Instr} (h : Decoded v (.ok i)) : i.wellFormed = true ∧ encode i = v := by
  cases h with
  | nop opc clear =>
    exact ⟨rfl, BitVec.eq_of_toNat_eq (toNat_formatN opc clear).symm⟩
  | init opc clear =>
    rw [opcField_eq_iff, BitVec.toNat_ofNat] at opc
    rw [reservedClearC_iff] at clear
    have value := toNat_shiftLeft_or (outbitsField v) (shift := 16) (opcode := 1) (by decide) (by decide)
    rw [outbitsField, toNat_extractLsb'] at value
    exact ⟨rfl, BitVec.eq_of_toNat_eq (value.trans (by omega))⟩
  | absorb opc clear =>
    rw [opcField_eq_iff, BitVec.toNat_ofNat] at opc
    rw [reservedClearB_iff] at clear
    have value := toNat_shiftLeft_or (byteField v) (shift := 8) (opcode := 2) (by decide) (by decide)
    rw [byteField, toNat_extractLsb'] at value
    exact ⟨rfl, BitVec.eq_of_toNat_eq (value.trans (by omega))⟩
  | absorbw opc clear =>
    rw [opcField_eq_iff, BitVec.toNat_ofNat] at opc
    rw [reservedClearW_iff] at clear
    have value := toNat_shiftLeft_or (cntm1Field v) (shift := 8) (opcode := 3) (by decide) (by decide)
    refine ⟨wellFormed_absorbw_field _, ?_⟩
    rw [encode_absorbw_succ]
    rw [cntm1Field, toNat_extractLsb'] at value
    exact BitVec.eq_of_toNat_eq (value.trans (by omega))
  | finalize opc clear =>
    exact ⟨rfl, BitVec.eq_of_toNat_eq (toNat_formatN opc clear).symm⟩

/-- Settles O2: of everything the decoder can find (`decoded_decode`), each command's fields make up the whole value. -/
theorem decodeThenEncode : Obligations.DecodeThenEncode := by
  unfold Obligations.DecodeThenEncode
  intro v i decoded
  exact (decoded ▸ decoded_decode v).encode_eq

/-- A value decodes to a command exactly when it is the encoding of that command. -/
theorem decode_eq_ok_iff (v : Word) (i : Instr) : decode v = .ok i ↔ i.wellFormed = true ∧ encode i = v := by
  constructor
  · exact decodeThenEncode v i
  · rintro ⟨wf, rfl⟩
    exact decode_encode wf

/-! ### Rows by match and mask (30_encoding.md R72) -/

/-- A masked word is the row's match exactly when the word is its own unmasked bits beside the match. -/
theorem and_mask_eq_iff (v : Word) {mask opcode : Word} (inMask : opcode &&& mask = opcode) :
    v &&& mask = opcode ↔ (v &&& ~~~mask) ||| opcode = v := by
  constructor
  · rintro rfl
    ext k hk
    simp only [BitVec.getElem_or, BitVec.getElem_and, BitVec.getElem_not]
    cases v[k] <;> cases mask[k] <;> rfl
  · intro split
    calc v &&& mask = (v &&& ~~~mask ||| opcode) &&& mask := by rw [split]
      _ = opcode := by simp [BitVec.and_or_distrib_right, BitVec.and_assoc, inMask]

/-- A field cut out of a word and put back in its place is the word masked to the field. -/
theorem extractLsb'_shiftLeft (v : Word) (start len : Nat) :
    (v.extractLsb' start len).setWidth 64 <<< start = v &&& ((BitVec.allOnes len).setWidth 64 <<< start) := by
  ext k hk
  simp only [BitVec.getElem_shiftLeft, BitVec.getElem_and, BitVec.getElem_setWidth, BitVec.getLsbD_extractLsb',
    BitVec.getLsbD_allOnes]
  by_cases below : k < start
  · simp [below]
  · simp [below, Nat.add_sub_cancel' (Nat.le_of_not_lt below), Bool.and_comm, hk]

/-- A row whose mask leaves out one field is selected by the values that are the field and the match. -/
theorem row_eq_iff (v : Word) {mask opcode : Word} {start len : Nat} (inMask : opcode &&& mask = opcode)
    (field : ~~~mask = (BitVec.allOnes len).setWidth 64 <<< start) :
    v &&& mask = opcode ↔ ((v.extractLsb' start len).setWidth 64 <<< start) ||| opcode = v := by
  rw [and_mask_eq_iff v inMask, field, extractLsb'_shiftLeft]

section Rows

variable (v : Word)

/-- Format N leaves out nothing, so its rows are single values. -/
theorem row_formatN (opcode : Word) : v &&& 0xFFFFFFFFFFFFFFFF#64 = opcode ↔ opcode = v := by
  rw [show v &&& 0xFFFFFFFFFFFFFFFF#64 = v from BitVec.and_allOnes]
  exact eq_comm

theorem decode_eq_ok_iff_encode {i : Instr} (wf : i.wellFormed = true) : decode v = .ok i ↔ encode i = v :=
  (decode_eq_ok_iff v i).trans (and_iff_right wf)

theorem row_nop : v &&& 0xFFFFFFFFFFFFFFFF#64 = 0x0#64 ↔ decode v = .ok .nop := by
  rw [decode_eq_ok_iff_encode v rfl]
  exact row_formatN v _

theorem row_init : v &&& 0xFFFFFFFF0000FFFF#64 = 0x1#64 ↔ decode v = .ok (.init (outbitsField v)) := by
  rw [decode_eq_ok_iff_encode v rfl]
  exact row_eq_iff v (by decide) (by decide)

theorem row_absorb : v &&& 0xFFFFFFFFFFFF00FF#64 = 0x2#64 ↔ decode v = .ok (.absorb (byteField v)) := by
  rw [decode_eq_ok_iff_encode v rfl]
  exact row_eq_iff v (by decide) (by decide)

theorem row_absorbw : v &&& 0xFFFFFFFFFFFFF8FF#64 = 0x3#64 ↔ decode v = .ok (.absorbw ((cntm1Field v).toNat + 1)) := by
  rw [decode_eq_ok_iff_encode v (wellFormed_absorbw_field _), encode_absorbw_succ]
  exact row_eq_iff v (by decide) (by decide)

theorem row_finalize : v &&& 0xFFFFFFFFFFFFFFFF#64 = 0x4#64 ↔ decode v = .ok .finalize := by
  rw [decode_eq_ok_iff_encode v rfl]
  exact row_formatN v _

/-- A value is ILLEGAL exactly when it is none of the five commands with the operands its fields hold. -/
theorem illegal_iff :
    (∃ e, decode v = .error e) ↔
      decode v ≠ .ok .nop ∧ decode v ≠ .ok (.init (outbitsField v)) ∧ decode v ≠ .ok (.absorb (byteField v)) ∧
      decode v ≠ .ok (.absorbw ((cntm1Field v).toNat + 1)) ∧ decode v ≠ .ok .finalize := by
  have found := decoded_decode v
  generalize decode v = r at found
  constructor
  · rintro ⟨e, rfl⟩
    exact ⟨nofun, nofun, nofun, nofun, nofun⟩
  · rintro ⟨noNop, noInit, noAbsorb, noAbsorbw, noFinalize⟩
    cases found with
    | nop => exact absurd rfl noNop
    | init => exact absurd rfl noInit
    | absorb => exact absurd rfl noAbsorb
    | absorbw => exact absurd rfl noAbsorbw
    | finalize => exact absurd rfl noFinalize
    | reservedBit | unknownOpcode => exact ⟨_, rfl⟩

/-- The first kind of ILLEGAL value. -/
theorem decode_eq_unknownOpcode_iff : decode v = .error .unknownOpcode ↔ 5 ≤ v.toNat % 256 := by
  rw [← toNat_opcField]
  have found := decoded_decode v
  generalize decode v = r at found
  cases found with
  | unknownOpcode opc => exact iff_of_true rfl opc
  | reservedBit opc => exact iff_of_false nofun (Nat.not_le.2 opc)
  | nop opc | init opc | absorb opc | absorbw opc | finalize opc => exact iff_of_false nofun (by rw [opc]; decide)

end Rows

/-- Settles O3: each row selects the encodings of its command (`row_nop` to `row_finalize`), and the decoder finds nothing else
(`illegal_iff`). -/
theorem decodeSelectsTableRow : Obligations.DecodeSelectsTableRow := by
  unfold Obligations.DecodeSelectsTableRow
  intro v
  refine ⟨row_nop v, row_init v, row_absorb v, row_absorbw v, row_finalize v, ?_⟩
  simp only [ne_eq, row_nop, row_init, row_absorb, row_absorbw, row_finalize]
  exact illegal_iff v

/-- Settles O4: an ILLEGAL value that is not of the first kind has a defined opcode. -/
theorem illegalHasTwoKinds : Obligations.IllegalHasTwoKinds := by
  unfold Obligations.IllegalHasTwoKinds
  intro v
  have first := decode_eq_unknownOpcode_iff v
  refine ⟨first, ?_⟩
  cases decoded : decode v with
  | ok i => exact iff_of_false nofun fun ⟨_, noCommand⟩ => noCommand i rfl
  | error e =>
    rw [decoded] at first
    cases e with
    | unknownOpcode => exact iff_of_false nofun fun ⟨defined, _⟩ => Nat.not_le.2 defined (first.1 rfl)
    | reservedBit => exact iff_of_true rfl ⟨Nat.lt_of_not_le fun unknown => (nomatch first.2 unknown), nofun⟩

/-- Settles O5: the decoder and the encoder evaluate the thirteen lines of R79. -/
theorem workedEncodings : Obligations.WorkedEncodings := by
  unfold Obligations.WorkedEncodings
  decide

end Sys2Proof

namespace Sys2Proof.Machine

/-- Settles O23: the engine's turn is the step of an ILLEGAL value, which ends in `endStep`; an error already raised keeps its code
when an overrun is resolved. -/
theorem illegalRaisesBadCmd : Obligations.IllegalRaisesBadCmd := by
  unfold Obligations.IllegalRaisesBadCmd
  intro s e rest busy turn illegal
  have run : step s = execIllegal { s with agenda := rest } := by
    rw [step_of_engineNext turn, engineTurn_of_busy (s := { s with agenda := rest }) busy,
      engineStep_of_illegal (s := { s with agenda := rest }) illegal]
  rw [run, execIllegal, endStep_eq]
  constructor
  · intro clear
    simp [clear, raiseErr]
  · intro error
    simp [error]

end Sys2Proof.Machine

namespace Sys2Proof.Machine

/-! ## Programs as bus accesses (30_encoding.md R77) -/

/-- `s` with another outside world: what it will do next, and the answers it has had. -/
def State.withWorld (s : State) (agenda : List Event) (replies : List BusReply) : State :=
  { s with agenda := agenda, replies := replies }

/-! ### The polling loop (30_encoding.md R77, 70_reset_and_hazards.md R175, R179) -/

theorem step_wait_pending {s : State} {rest : List Event} (busy : s.busy = true) (agenda : s.agenda = .wait :: rest) :
    step s = .next (s.withWorld (.engine :: .wait :: rest) (.value (statusWord s) :: s.replies)) := by
  rw [step_of_agenda_cons agenda, runEvent, pollStatus, if_pos (by exact busy)]
  rfl

theorem step_wait_idle {s : State} {rest : List Event} (idle : s.busy = false) (agenda : s.agenda = .wait :: rest) :
    step s = .next (s.withWorld rest (.value (statusWord s) :: s.replies)) := by
  rw [step_of_agenda_cons agenda, runEvent, pollStatus, if_neg (by exact Bool.eq_false_iff.1 idle)]
  rfl

theorem step_engine_pending {s : State} {rest : List Event} (busy : s.busy = true) (agenda : s.agenda = .engine :: rest) :
    step s = engineStep (s.withWorld rest s.replies) := by
  rw [step_of_agenda_cons agenda]
  exact engineTurn_of_busy (s := s.withWorld rest s.replies) busy

/-- An engine step ends with `BUSY = 0` and leaves the agenda as it is. -/
theorem engineStep_next {s t : State} (h : engineStep s = .next t) : t.busy = false ∧ t.agenda = s.agenda := by
  obtain ⟨u, effect, rfl⟩ := engineStep_effect h
  obtain ⟨_, _, _, agenda, _⟩ := effect.frame
  exact ⟨endStep_busy u, (endStep_agenda u).trans agenda⟩

/-- Settles O29: a poll that finds `BUSY = 1`, the engine's turn, and a poll that finds `BUSY = 0`. -/
theorem waitEndsAfterPendingStep : Obligations.WaitEndsAfterPendingStep := by
  unfold Obligations.WaitEndsAfterPendingStep
  intro s t rest busy agenda executed
  obtain ⟨idle, left⟩ := engineStep_next executed
  have polled : step s = .next (s.withWorld (.engine :: .wait :: rest) (.value (statusWord s) :: s.replies)) :=
    step_wait_pending busy agenda
  have turn : step (s.withWorld (.engine :: .wait :: rest) (.value (statusWord s) :: s.replies)) = .next t :=
    (step_engine_pending (s := s.withWorld (.engine :: .wait :: rest) _) busy rfl).trans executed
  refine ⟨?_, idle⟩
  rw [polled, thenDo, turn, thenDo, step_wait_idle idle left]
  rfl

/-! ### Runs of the whole system -/

/-- Some number of steps leads from the first state to the second. -/
def Reaches : State → State → Prop := Relation.ReflTransGen fun s t => step s = .next t

theorem Reaches.trans {s t u : State} (h : Reaches s t) (h' : Reaches t u) : Reaches s u := Relation.ReflTransGen.trans h h'

theorem reaches_of_step {s t : State} (h : step s = .next t) : Reaches s t := Relation.ReflTransGen.single h

theorem Reaches.exists_runSteps {s t : State} (h : Reaches s t) : ∃ k, runSteps k s = .next t := by
  induction h using Relation.ReflTransGen.head_induction_on with
  | refl => exact ⟨0, rfl⟩
  | head first _ ih =>
    obtain ⟨k, run⟩ := ih
    exact ⟨k + 1, by rw [runSteps, first]; exact run⟩

/-- A computation in two parts that answers a next state has answered one in the first part. -/
theorem thenDo_next {α : Type} {o : Host.Outcome State Fault Refusal} {f : State → Host.Outcome α Fault Refusal} {t : α}
    (h : thenDo o f = .next t) : ∃ s, o = .next s ∧ f s = .next t := by
  cases o with
  | next s => exact ⟨s, rfl, h⟩
  | fault => cases h
  | refused => cases h

/-- While a command is pending, the polling loop reaches the state after that command's step. -/
theorem reaches_wait {s t : State} {rest : List Event} (busy : s.busy = true) (agenda : s.agenda = .wait :: rest)
    (h : engineStep (s.withWorld (.wait :: rest) (.value (statusWord s) :: s.replies)) = .next t) :
    Reaches s (t.withWorld rest (.value (statusWord t) :: t.replies)) := by
  obtain ⟨run, -⟩ := waitEndsAfterPendingStep s t rest busy agenda h
  obtain ⟨v, run, last⟩ := thenDo_next run
  obtain ⟨u, first, second⟩ := thenDo_next run
  exact ((reaches_of_step first).trans (reaches_of_step second)).trans (reaches_of_step last)

theorem step_wrReg {s : State} {k : Nat} {v : Word} {rest : List Event} (hk : k < 16)
    (agenda : s.agenda = wrReg (8 * k) v :: rest) :
    step s = .next (record .written (writeReg (slotReg k) v (s.withWorld rest s.replies))) := by
  rw [step_of_agenda_cons agenda]
  exact congrArg _ (hostWrite_slot hk v _)

theorem regValue_withWorld (r : Reg) (s : State) (agenda : List Event) (replies : List BusReply) :
    regValue r (s.withWorld agenda replies) = regValue r s := by
  cases r <;> rfl

theorem step_rdReg {s : State} {k : Nat} {rest : List Event} (hk : k < 16) (agenda : s.agenda = rdReg (8 * k) :: rest) :
    step s = .next (s.withWorld rest (.value (regValue (slotReg k) s) :: s.replies)) := by
  rw [step_of_agenda_cons agenda]
  exact congrArg _ ((hostRead_slot hk _).trans (by rw [regValue_setAgenda]; rfl))

theorem writeCmd_of_idle {s : State} (idle : s.busy = false) (v : Word) : writeCmd v s = acceptCommand v s := by
  rw [writeCmd, idle, if_neg Bool.false_ne_true]

theorem issue_eq_engineStep {s : State} (idle : s.busy = false) (i : Instr) :
    issue i s = engineStep (acceptCommand (encode i) s) := by
  rw [issue, writeCmd_of_idle idle, engineTurn_of_busy rfl]

/-- A command mnemonic and its wait reach what issuing the command gives, for a property that no outside world changes. -/
theorem reaches_command {s : State} {i : Instr} {rest : List Event} {Q : State → Prop} (idle : s.busy = false)
    (agenda : s.agenda = wrCommand i :: .wait :: rest)
    (issued : ∀ agenda replies, ∃ t, issue i (s.withWorld agenda replies) = .next t ∧ Q t)
    (noWorld : ∀ {t} agenda replies, Q t → Q (t.withWorld agenda replies)) :
    ∃ t, Reaches s t ∧ t.busy = false ∧ t.agenda = rest ∧ Q t := by
  have idleIn (agenda replies) : (s.withWorld agenda replies).busy = false := idle
  have written := step_wrReg (k := 0) (by decide) agenda
  rw [slotReg, writeReg, writeCmd_of_idle (idleIn _ _)] at written
  obtain ⟨t, executed, holds⟩ :=
    issued (.wait :: rest) (.value (statusWord (acceptCommand (encode i) s)) :: .written :: s.replies)
  rw [issue_eq_engineStep (idleIn _ _)] at executed
  obtain ⟨idleT, -⟩ := engineStep_next executed
  exact ⟨_, (reaches_of_step written).trans (reaches_wait rfl rfl executed), idleT, rfl, noWorld _ _ holds⟩

/-! ### The runs of `absorbws` (30_encoding.md R77) -/

/-- A list that is not eight bytes and more has fewer than eight. -/
theorem length_lt_eight {r : List Byte}
    (few : ∀ b0 b1 b2 b3 b4 b5 b6 b7 rest, r = b0 :: b1 :: b2 :: b3 :: b4 :: b5 :: b6 :: b7 :: rest → False) :
    r.length < 8 := by
  by_contra long
  have split (k : Nat) (hk : k < 8 := by decide) : r.drop k = r[k] :: r.drop (k + 1) := List.drop_eq_getElem_cons (by omega)
  exact few _ _ _ _ _ _ _ _ (r.drop 8) (by
    rw [← split 7, ← split 6, ← split 5, ← split 4, ← split 3, ← split 2, ← split 1, ← split 0, List.drop_zero])

theorem flatten_runsOf8 (m : List Byte) : (runsOf8 m).flatten = m := by
  induction m using runsOf8.induct with
  | case1 => rfl
  | case2 b0 b1 b2 b3 b4 b5 b6 b7 rest ih => rw [runsOf8, List.flatten_cons, ih]; rfl
  | case3 short nonempty few =>
    rw [runsOf8, List.flatten_singleton]
    · exact nonempty
    · exact few

theorem length_of_mem_runsOf8 (m : List Byte) : ∀ r ∈ runsOf8 m, 1 ≤ r.length ∧ r.length ≤ 8 := by
  induction m using runsOf8.induct with
  | case1 => exact nofun
  | case2 b0 b1 b2 b3 b4 b5 b6 b7 rest ih =>
    rw [runsOf8]
    exact List.forall_mem_cons.2 ⟨⟨Nat.le_add_left 1 7, Nat.le_refl 8⟩, ih⟩
  | case3 short nonempty few =>
    rw [runsOf8, List.forall_mem_singleton]
    · exact ⟨List.length_pos_iff.2 nonempty, (length_lt_eight few).le⟩
    · exact nonempty
    · exact few

/-- The bytes of a run, as one number, byte 0 lowest. -/
theorem toNat_load8_cons (b : Byte) (bs : List Byte) (room : (load8 bs).toNat < 256 ^ 7) :
    (load8 (b :: bs)).toNat = (load8 bs).toNat * 256 + b.toNat := by
  have lt := b.isLt
  rw [load8, BitVec.toNat_or, BitVec.toNat_shiftLeft, BitVec.toNat_setWidth, Nat.mod_eq_of_lt (by omega : b.toNat < 2 ^ 64),
    Nat.mod_eq_of_lt (by rw [Nat.shiftLeft_eq]; omega), ← Nat.shiftLeft_add_eq_or_of_lt lt, Nat.shiftLeft_eq]

theorem load8_lt (r : List Byte) (short : r.length ≤ 8) : (load8 r).toNat < 256 ^ r.length := by
  induction r with
  | nil => decide
  | cons b bs ih =>
    rw [List.length_cons] at short ⊢
    have tail := ih (by omega)
    have lt := b.isLt
    rw [toNat_load8_cons b bs (tail.trans_le (Nat.pow_le_pow_right (by decide) (by omega))), Nat.pow_succ]
    omega

/-- The lanes of a loaded run are its bytes (30_encoding.md R70, R77). -/
theorem lane_load8 (r : List Byte) (short : r.length ≤ 8) : ∀ k (hk : k < r.length), lane (load8 r) k = r[k] := by
  induction r with
  | nil => exact nofun
  | cons b bs ih =>
    intro k hk
    rw [List.length_cons] at short hk
    have room : (load8 bs).toNat < 256 ^ 7 :=
      (load8_lt bs (by omega)).trans_le (Nat.pow_le_pow_right (by decide) (by omega))
    have lt := b.isLt
    apply BitVec.eq_of_toNat_eq
    rw [toNat_lane, toNat_load8_cons b bs room]
    cases k with
    | zero =>
      rw [List.getElem_cons_zero]
      omega
    | succ k =>
      rw [List.getElem_cons_succ, ← ih (by omega) k (by omega), toNat_lane, Nat.pow_succ', ← Nat.div_div_eq_div_mul]
      congr 2
      omega

theorem dataBytes_load8 (r : List Byte) (short : r.length ≤ 8) : dataBytes r.length (load8 r) = r := by
  refine List.ext_getElem (by rw [dataBytes, List.length_map, List.length_range]) fun k _ hk => ?_
  simp only [dataBytes, List.getElem_map, List.getElem_range, lane_load8 r short k hk]

/-! ### `absorbws` in an open context -/

theorem Absorbed.withWorld {ob : BitVec 16} {m : List Byte} {s : State} (agenda : List Event) (replies : List BusReply)
    (h : Absorbed ob m s) : Absorbed ob m (s.withWorld agenda replies) :=
  ⟨h.phase, h.ovr, h.errcode, h.ow, h.walk, h.pos, h.long, h.sum⟩

/-- `wr DATA`, `absorbw` and `wait` for one run of up to 8 bytes. -/
def absorbwEvents (r : List Byte) : List Event := [wrReg 0x08 (load8 r), wrCommand (.absorbw r.length), .wait]

theorem absorbwsEvents_eq (m : List Byte) : absorbwsEvents m = (runsOf8 m).flatMap absorbwEvents := rfl

/-- The accesses of one run append its bytes to the message. -/
theorem reaches_absorbw {ob : BitVec 16} {m r : List Byte} {s : State} {rest : List Event} (h : Absorbed ob m s)
    (idle : s.busy = false) (size : 1 ≤ r.length ∧ r.length ≤ 8) (agenda : s.agenda = absorbwEvents r ++ rest) :
    ∃ t, Reaches s t ∧ t.busy = false ∧ t.agenda = rest ∧ Absorbed ob (m ++ r) t := by
  obtain ⟨low, high⟩ := size
  have wf : (Send.word r.length (load8 r)).wellFormed = true := by
    rw [Send.wellFormed, Instr.wellFormed, decide_eq_true low, decide_eq_true high]
    rfl
  have written := step_wrReg (k := 1) (by decide) agenda
  have issued (agenda replies) : ∃ t, issue (.absorbw r.length) (writeReg .data (load8 r) (s.withWorld agenda replies)) =
      .next t ∧ Absorbed ob (m ++ r) t := by
    obtain ⟨t, sent, -, absorbed⟩ := sendOne_absorbed (h.withWorld agenda replies) idle wf
    rw [Send.bytes, dataBytes_load8 r high] at absorbed
    exact ⟨t, sent, absorbed⟩
  obtain ⟨t, reached, after⟩ := reaches_command (Q := Absorbed ob (m ++ r))
    (s := record .written (writeReg .data (load8 r) (s.withWorld (wrCommand (.absorbw r.length) :: .wait :: rest) s.replies)))
    idle rfl issued Absorbed.withWorld
  exact ⟨t, (reaches_of_step written).trans reached, after⟩

theorem reaches_absorbws {ob : BitVec 16} {rest : List Event} (runs : List (List Byte))
    (size : ∀ r ∈ runs, 1 ≤ r.length ∧ r.length ≤ 8) : ∀ {m : List Byte} {s : State}, Absorbed ob m s → s.busy = false →
    s.agenda = runs.flatMap absorbwEvents ++ rest →
    ∃ t, Reaches s t ∧ t.busy = false ∧ t.agenda = rest ∧ Absorbed ob (m ++ runs.flatten) t := by
  induction runs with
  | nil => exact fun {m s} h idle agenda => ⟨s, .refl, idle, agenda, by rwa [List.flatten_nil, List.append_nil]⟩
  | cons r runs ih =>
    intro m s h idle agenda
    obtain ⟨sizeR, sizeRuns⟩ := List.forall_mem_cons.1 size
    rw [List.flatMap_cons, List.append_assoc] at agenda
    obtain ⟨u, first, idleU, agendaU, absorbed⟩ := reaches_absorbw h idle sizeR agenda
    obtain ⟨t, others, idleT, agendaT, all⟩ := ih sizeRuns absorbed idleU agendaU
    rw [List.append_assoc] at all
    exact ⟨t, first.trans others, idleT, agendaT, all⟩

/-! ### The reads at the end -/

/-- What FINALIZE leaves of the digest of `m`: the phase, `OW` and the words. -/
def Published (ob : BitVec 16) (m : List Byte) (s : State) : Prop :=
  ∃ acc, compress (evolve (pad m)) = some acc ∧ s.phase = .done ∧ s.ow = BitVec.ofNat 4 (ob.toNat / 64) ∧
    s.dig = squeezeInto s.ow acc

theorem Published.withWorld {ob : BitVec 16} {m : List Byte} {s : State} (agenda : List Event) (replies : List BusReply)
    (h : Published ob m s) : Published ob m (s.withWorld agenda replies) := h

theorem issue_finalize_published {ob : BitVec 16} {m : List Byte} {s : State} (h : Absorbed ob m s) (idle : s.busy = false) :
    ∃ t, issue .finalize s = .next t ∧ Published ob m t := by
  obtain ⟨t, acc, issued, compressed, phase, -, ow, dig⟩ := issue_finalize_absorbed h idle
  exact ⟨t, issued, acc, compressed, phase, ow, dig⟩

/-- The registers below `OW` show the digest's words. -/
theorem Published.digest_eq {ob : BitVec 16} {m : List Byte} {s : State} (h : Published ob m s)
    (legal : legalOutbits ob = true) :
    digest m ob.toNat = some ((List.range (ob.toNat / 64)).map fun k => regValue (slotReg (k + 8)) s) := by
  obtain ⟨acc, compressed, phase, ow, dig⟩ := h
  obtain ⟨-, -, high⟩ := (legalOutbits_iff ob).1 legal
  have owNat : s.ow.toNat = ob.toNat / 64 := by rw [ow, BitVec.toNat_ofNat, Nat.mod_eq_of_lt (by omega)]
  rw [digest, compressed, Option.map_some, squeeze]
  refine congrArg some (List.map_congr_left fun k hk => ?_)
  have below := List.mem_range.1 hk
  rw [regValue_digest_slot (by omega), if_pos ⟨phase, owNat ▸ below⟩, dig, cell_squeezeInto acc (by omega),
    if_pos (owNat ▸ below)]

/-- Reads of registers, one after the other, answer what the registers show. -/
theorem reaches_reads {rest : List Event} (slots : List Nat) (inside : ∀ k ∈ slots, k < 16) : ∀ {s : State},
    s.agenda = slots.map (fun k => rdReg (8 * k)) ++ rest →
    Reaches s (s.withWorld rest ((slots.map fun k => BusReply.value (regValue (slotReg k) s)).reverse ++ s.replies)) := by
  induction slots with
  | nil =>
    intro s agenda
    rw [show rest = s.agenda from agenda.symm]
    exact .refl
  | cons k slots ih =>
    intro s agenda
    obtain ⟨insideK, insideSlots⟩ := List.forall_mem_cons.1 inside
    have first := step_rdReg insideK agenda
    have others := ih insideSlots
      (s := s.withWorld (slots.map (fun k => rdReg (8 * k)) ++ rest) (.value (regValue (slotReg k) s) :: s.replies)) rfl
    simp only [regValue_withWorld] at others
    rw [List.map_cons, List.reverse_cons, List.append_assoc]
    exact (reaches_of_step first).trans others

/-- The reads of `digest N` are those of the slots from 8 on. -/
theorem digestEvents_eq (n : Nat) :
    digestEvents n = ((List.range (n / 64)).map (· + 8)).map fun k => rdReg (8 * k) := by
  rw [digestEvents, List.map_map]
  refine List.map_congr_left fun k _ => congrArg rdReg ?_
  rw [Nat.mul_add, Nat.add_comm]

/-- `digest N` with a legal `N`, after FINALIZE, reads the digest's words in order. -/
theorem reaches_digestEvents {ob : BitVec 16} {m : List Byte} {s : State} (h : Published ob m s)
    (legal : legalOutbits ob = true) (agenda : s.agenda = digestEvents ob.toNat) :
    ∃ ws, digest m ob.toNat = some ws ∧ ws.length = ob.toNat / 64 ∧
      Reaches s (s.withWorld [] ((ws.map BusReply.value).reverse ++ s.replies)) := by
  obtain ⟨-, -, high⟩ := (legalOutbits_iff ob).1 legal
  have inside : ∀ k ∈ (List.range (ob.toNat / 64)).map (· + 8), k < 16 := by
    simp only [List.mem_map, List.mem_range]
    rintro _ ⟨k, hk, rfl⟩
    omega
  have reads := reaches_reads (rest := []) _ inside (by rw [agenda, digestEvents_eq, List.append_nil])
  refine ⟨_, h.digest_eq legal, by rw [List.length_map, List.length_range], ?_⟩
  rwa [List.map_map] at reads ⊢

/-- Settles O54: INIT opens an empty context, each run of up to 8 bytes appends to its message (`reaches_absorbws`), FINALIZE
publishes, and the reads after that of `STATUS` answer the digest's words (`reaches_digestEvents`). -/
theorem hashProgramReadsDigest : Obligations.HashProgramReadsDigest := by
  unfold Obligations.HashProgramReadsDigest
  intro s m n idle noOvr aligned low high agenda
  have length : (BitVec.ofNat 16 n).toNat = n := by rw [BitVec.toNat_ofNat, Nat.mod_eq_of_lt (by omega)]
  have legal : legalOutbits (BitVec.ofNat 16 n) = true := by
    rw [legalOutbits_iff, length]
    exact ⟨aligned, low, high⟩
  have init (agenda replies) : ∃ t, issue (.init (BitVec.ofNat 16 n)) (s.withWorld agenda replies) = .next t ∧
      Absorbed (BitVec.ofNat 16 n) [] t := by
    obtain ⟨t, issued, -, empty⟩ := issue_init_absorbed (s := s.withWorld agenda replies) idle noOvr legal
    exact ⟨t, issued, empty⟩
  rw [hashEvents, absorbwsEvents_eq, List.append_assoc, List.append_assoc] at agenda
  obtain ⟨opened, toOpened, idleOpened, agendaOpened, empty⟩ := reaches_command idle agenda init Absorbed.withWorld
  obtain ⟨sent, toSent, idleSent, agendaSent, absorbed⟩ :=
    reaches_absorbws (runsOf8 m) (length_of_mem_runsOf8 m) empty idleOpened agendaOpened
  rw [List.nil_append, flatten_runsOf8] at absorbed
  obtain ⟨closed, toClosed, -, agendaClosed, published⟩ := reaches_command idleSent agendaSent
    (fun _ _ => issue_finalize_published (absorbed.withWorld _ _) idleSent) Published.withWorld
  have status := step_rdReg (k := 2) (by decide) agendaClosed
  obtain ⟨ws, hws, size, toRead⟩ := reaches_digestEvents (published.withWorld _ _) legal (congrArg digestEvents length.symm)
  obtain ⟨k, run⟩ := ((toOpened.trans toSent).trans (toClosed.trans (reaches_of_step status))).trans toRead |>.exists_runSteps
  rw [length] at hws size
  exact ⟨k, _, ws, run, rfl, hws, List.take_left' (by rw [List.length_reverse, List.length_map, size])⟩

end Sys2Proof.Machine

namespace Sys2Proof.Machine

/-! ## `BUSY` and `OVR`: only the end of a step reads or writes them (40_host_commands.md R84, R85) -/

/-- `s` with other values of `BUSY` and `OVR`. -/
def State.withLatches (s : State) (busy ovr : Bool) : State := { s with busy := busy, ovr := ovr }

/-- An update that neither reads nor writes `BUSY` and `OVR`. -/
def IgnoresLatches (f : State → State) : Prop := ∀ s busy ovr, f (s.withLatches busy ovr) = (f s).withLatches busy ovr

theorem ignoresLatches_absorbBytes (bs : List Byte) : IgnoresLatches (absorbBytes bs) := by
  intro s busy ovr
  induction bs generalizing s with
  | nil => rfl
  | cons b bs ih => exact ih (absorbByte b s)

theorem padLoop_of_long {s : State} (long : s.long = true) (n : Nat) (seed : Word) : padLoop n seed s = s := by
  cases n with
  | zero => rfl
  | succ n => rw [padLoop, if_pos long]

theorem padLoop_succ_of_short {s : State} (short : s.long = false) (n : Nat) (seed : Word) :
    padLoop (n + 1) seed s = padLoop n (lcg seed) (padOnce (lcg seed) s) := by
  rw [padLoop, short, if_neg Bool.false_ne_true]

theorem ignoresLatches_padLoop (n : Nat) : ∀ seed, IgnoresLatches (padLoop n seed) := by
  induction n with
  | zero => exact fun _ _ _ _ => rfl
  | succ n ih =>
    intro seed s busy ovr
    cases long : s.long with
    | true => rw [padLoop_of_long long, padLoop_of_long (by exact long)]
    | false =>
      rw [padLoop_succ_of_short long, padLoop_succ_of_short (by exact long)]
      exact ih _ (padOnce (lcg seed) s) busy ovr

theorem ignoresLatches_padded : IgnoresLatches padded := by
  intro s busy ovr
  cases long : s.long with
  | true => rw [padded_of_long long, padded_of_long (by exact long)]
  | false =>
    rw [padded_of_short long, padded_of_short (by exact long)]
    exact ignoresLatches_padLoop _ _ s busy ovr

/-! ### The end of a step -/

/-- What an overrun makes of a step's result (40_host_commands.md R85). -/
def overrunError (s : State) : State := if s.phase = .error then s else raiseErr .overrun s

theorem endStep_eq_overrunError (s : State) :
    endStep s = if s.ovr then overrunError (s.withLatches false false) else s.withLatches false false := by
  rw [endStep_eq]
  cases ovr : s.ovr with
  | false => simp [State.withLatches]
  | true => by_cases error : s.phase = .error <;> simp [State.withLatches, overrunError, raiseErr, error]

theorem endStep_of_no_overrun {s : State} (noOvr : s.ovr = false) : endStep s = s.withLatches false false := by
  rw [endStep_eq_overrunError, noOvr, if_neg Bool.false_ne_true]

/-- First error wins: a step that ended in ERROR keeps its code. -/
theorem endStep_of_error {s : State} (error : s.phase = .error) : endStep s = s.withLatches false false := by
  rw [endStep_eq_overrunError, overrunError, if_pos (c := (s.withLatches false false).phase = .error) error, ite_self]

/-! ### The overrun is resolved after the effect, whatever the command (40_host_commands.md R85) -/

/-- With an overrun the outcome is the one without, turned into an OVERRUN error. -/
def ResolvesOverrun (f : State → Host.Outcome State Fault Refusal) : Prop :=
  ∀ (s : State) (busy : Bool),
    f (s.withLatches busy true) = thenDo (f (s.withLatches busy false)) fun t => .next (overrunError t)

theorem next_endStep_resolves (s : State) (busy : Bool) :
    .next (endStep (s.withLatches busy true)) =
      thenDo (.next (endStep (s.withLatches busy false))) fun t => .next (overrunError t) := by
  rw [endStep_eq_overrunError, if_pos (by rfl), endStep_of_no_overrun (by rfl)]
  rfl

theorem resolvesOverrun_endStep {f : State → State} (hf : IgnoresLatches f) : ResolvesOverrun fun s => .next (endStep (f s)) := by
  intro s busy
  simp only [hf s busy]
  exact next_endStep_resolves (f s) busy

theorem resolvesOverrun_inContext {f : State → Host.Outcome State Fault Refusal} (hf : ResolvesOverrun f) :
    ResolvesOverrun fun s => inContext s f := by
  intro s busy
  have phaseIs {p : Phase} (h : s.phase = p) (ovr : Bool) : (s.withLatches busy ovr).phase = p := h
  cases phase : s.phase with
  | absorb => simp only [inContext_absorb (phaseIs phase _), hf s busy]
  | idle => simp only [inContext_idle (phaseIs phase _)]; exact next_endStep_resolves (raiseErr .sequence s) busy
  | done => simp only [inContext_done (phaseIs phase _)]; exact next_endStep_resolves (raiseErr .sequence s) busy
  | error => simp only [inContext_error (phaseIs phase _)]; exact next_endStep_resolves s busy

theorem resolvesOverrun_execInit (ob : BitVec 16) : ResolvesOverrun (execInit ob) := by
  refine resolvesOverrun_endStep (f := fun s => if legalOutbits ob then openContext ob s else rejectConfig s) fun s busy ovr => ?_
  cases legalOutbits ob <;> rfl

theorem resolvesOverrun_execIllegal : ResolvesOverrun execIllegal := by
  refine resolvesOverrun_endStep (f := fun s => if s.phase = .error then s else raiseErr .badCmd s) fun s busy ovr => ?_
  simp only [apply_ite (State.withLatches · busy ovr)]
  rfl

/-- A stop of the compressor is the same stop with and without an overrun. -/
theorem resolvesOverrun_execFinalize : ResolvesOverrun execFinalize := by
  refine resolvesOverrun_inContext fun s busy => ?_
  have compressedAs (ovr : Bool) : compress ((padded s).withLatches busy ovr).amps = compress (padded s).amps := rfl
  simp only [ignoresLatches_padded s busy, compressedAs]
  cases compress (padded s).amps with
  | none => rfl
  | some acc => exact next_endStep_resolves (publish acc (padded s)) busy

theorem resolvesOverrun_exec (i : Instr) : ResolvesOverrun (exec i) := by
  cases i with
  | nop => exact resolvesOverrun_endStep (f := id) fun _ _ _ => rfl
  | init ob => exact resolvesOverrun_execInit ob
  | absorb b => exact resolvesOverrun_inContext (resolvesOverrun_endStep (f := absorbByte b) fun _ _ _ => rfl)
  | absorbw cnt =>
    exact resolvesOverrun_inContext (resolvesOverrun_endStep (f := fun s => absorbBytes (dataBytes cnt s.pdata) s)
      fun s => ignoresLatches_absorbBytes (dataBytes cnt s.pdata) s)
  | finalize => exact resolvesOverrun_execFinalize

theorem resolvesOverrun_engineStep : ResolvesOverrun engineStep := by
  intro s busy
  have pcmd (ovr : Bool) : (s.withLatches busy ovr).pcmd = s.pcmd := rfl
  simp only [engineStep, pcmd]
  split
  · exact resolvesOverrun_exec _ s busy
  · exact resolvesOverrun_execIllegal s busy

theorem exec_init (ob : BitVec 16) (s : State) :
    exec (.init ob) s = .next (endStep (if legalOutbits ob then openContext ob s else rejectConfig s)) := rfl

/-- Settles O15: every command resolves the overrun in its result without one (`resolvesOverrun_exec`), and the phase ABSORB that a
legal INIT leaves is not ERROR. -/
theorem overrunResolvedAfterEffect : Obligations.OverrunResolvedAfterEffect := by
  unfold Obligations.OverrunResolvedAfterEffect
  constructor
  · intro i s t latched alone
    have resolved : exec i s = thenDo (exec i { s with ovr := false }) fun t => .next (overrunError t) := by
      have both := resolvesOverrun_exec i s s.busy
      rwa [← latched] at both
    obtain ⟨u, -, rfl⟩ := exec_effect alone
    exact ⟨by rw [resolved, alone]; rfl, endStep_ovr u⟩
  · intro ob s latched legal
    refine ⟨_, exec_init_legal legal s, ?_, ?_⟩
    · rw [endStep_phase, openContext_ovr, latched, if_pos rfl]
    · rw [endStep_errcode, openContext_ovr, latched, openContext_phase, if_pos ⟨rfl, by decide⟩]

/-! ### Writes to `CMD` while a command is pending (40_host_commands.md R83) -/

theorem step_write_cmd_busy {s : State} (busy : s.busy = true) (v : Word) (rest : List Event) :
    step { s with agenda := .write Config.cheBase 8 v :: rest } =
      .next { s with ovr := true, agenda := rest, replies := .written :: s.replies } := by
  refine (step_write_slot (k := 0) (by decide) v s rest).trans ?_
  rw [slotReg, writeReg, writeCmd, if_pos (by exact busy)]
  rfl

theorem thenDo_pure (o : Host.Outcome State Fault Refusal) : thenDo o .next = o := by
  cases o <;> rfl

/-- The engine's turn with an overrun latched is the turn without one, turned into an OVERRUN error. -/
theorem step_engine_overrun {s : State} (busy : s.busy = true) (latched : s.ovr = true) (rest : List Event) :
    step { s with agenda := .engine :: rest } =
      thenDo (step { s with ovr := false, agenda := .engine :: rest }) fun t => .next (overrunError t) := by
  have turn (ovr : Bool) : step { s with ovr := ovr, agenda := .engine :: rest } =
      engineStep (State.withLatches { s with agenda := rest } true ovr) := by
    rw [step_engine_pending (s := { s with ovr := ovr, agenda := .engine :: rest }) busy rfl, ← busy]
    rfl
  rw [turn, turn, latched]
  exact resolvesOverrun_engineStep _ true

/-- However many writes come first, the engine's turn sees one latched overrun. -/
theorem runSteps_overrun_writes (vs : List Word) (rest : List Event) : ∀ s : State, s.busy = true → vs ≠ [] ∨ s.ovr = true →
    runSteps (vs.length + 1) { s with agenda := vs.map (.write Config.cheBase 8 ·) ++ .engine :: rest } =
      thenDo
        (step { s with ovr := false, agenda := .engine :: rest, replies := List.replicate vs.length .written ++ s.replies })
        fun t => .next (overrunError t) := by
  induction vs with
  | nil =>
    intro s busy latched
    exact (thenDo_pure _).trans (step_engine_overrun busy (latched.resolve_left fun ne => ne rfl) rest)
  | cons v vs ih =>
    intro s busy _
    have later := ih { s with ovr := true, replies := .written :: s.replies } busy (.inr rfl)
    have replies : List.replicate vs.length BusReply.written ++ .written :: s.replies =
        List.replicate (vs.length + 1) .written ++ s.replies := by
      rw [List.replicate_succ', List.append_assoc, List.singleton_append]
    rw [List.length_cons, ← replies]
    refine Eq.trans ?_ later
    rw [runSteps, List.map_cons, List.cons_append, step_write_cmd_busy busy, thenDo]

/-- Settles O14: such a write only latches `OVR` (`step_write_cmd_busy`), and the engine's turn after any number of them resolves one
overrun (`runSteps_overrun_writes`). -/
theorem overrunWriteIsDiscarded : Obligations.OverrunWriteIsDiscarded := by
  unfold Obligations.OverrunWriteIsDiscarded
  exact fun s rest busy => ⟨fun v => step_write_cmd_busy busy v rest, fun vs => runSteps_overrun_writes vs rest s busy⟩

/-! ## The engine's turn (40_host_commands.md R81) -/

/-- Settles O12: a value that decodes is the encoding of a well-formed command. -/
theorem stepRunsDecodedCommand : Obligations.StepRunsDecodedCommand := by
  unfold Obligations.StepRunsDecodedCommand
  intro s i busy decoded
  have run {rest : List Event} (turn : s.engineNext rest) : step s = exec i { s with agenda := rest } := by
    rw [step_of_engineNext turn, engineTurn_of_busy (by exact busy), engineStep_of_decode (by exact decoded)]
  obtain ⟨wf, -⟩ := (decode_eq_ok_iff _ _).1 decoded
  exact ⟨wf, fun nil => (run (.inr ⟨nil, rfl⟩)).trans (by rw [← nil]), fun rest head => run (.inl head)⟩

/-- Settles O13: the engine's turn with `BUSY = 0` is no step (`engineTurn_of_idle`), in both ways it comes. -/
theorem idleEngineKeepsState : Obligations.IdleEngineKeepsState := by
  unfold Obligations.IdleEngineKeepsState
  intro s idle
  constructor
  · exact fun nil => (step_of_agenda_nil nil).trans (engineTurn_of_idle idle)
  · exact fun rest head => (step_of_agenda_cons head).trans (engineTurn_of_idle (s := { s with agenda := rest }) idle)

/-! ## The results of NOP and INIT (40_host_commands.md R86 to R88) -/

/-- Settles O16: NOP is the end of a step alone. -/
theorem nopResult : Obligations.NopResult := by
  unfold Obligations.NopResult
  exact fun s => congrArg Host.Outcome.next (endStep_eq s)

/-- Settles O18: the condition is `legalOutbits_iff`, and between 64 and 512 the multiples of 64 are the eight listed. -/
theorem legalOutbitsExactly : Obligations.LegalOutbitsExactly := by
  unfold Obligations.LegalOutbitsExactly
  refine fun ob => ⟨legalOutbits_iff ob, (legalOutbits_iff ob).trans ?_⟩
  simp only [List.mem_cons, List.not_mem_nil, or_false]
  omega

theorem exec_init_illegal {ob : BitVec 16} (h : legalOutbits ob = false) (s : State) :
    exec (.init ob) s = .next (endStep (rejectConfig s)) := by
  rw [exec_init, h, if_neg Bool.false_ne_true]

theorem cell_initialAmps {k : Nat} (hk : k < 512) :
    initialAmps.cell k = if k = 256 then ⟨0x3FF0000000000000#64, 0#64⟩ else ⟨0#64, 0#64⟩ := by
  have here : center % Config.ns = k % Config.ns ↔ k = 256 := by
    rw [Nat.mod_eq_of_lt hk]
    exact eq_comm
  rw [initialAmps, Bank.cell_put, Bank.cell_replicate]
  simp only [here]
  rfl

/-- Settles O17: a legal INIT ends in `openContext`, whose stores are the initial vector, and any other in `rejectConfig`. -/
theorem initResult : Obligations.InitResult := by
  unfold Obligations.InitResult
  intro ob s noOvr
  rw [← legalOutbits_iff]
  constructor
  · intro legal
    obtain ⟨-, -, high⟩ := (legalOutbits_iff ob).1 legal
    refine ⟨{ openContext ob s with busy := false }, ?_, rfl, ?_, fun k hk => cell_initialAmps hk, fun j _ => ?_, fun j _ => ?_⟩
    · rw [exec_init_legal legal, endStep_of_not_ovr (by exact noOvr)]
    · show (BitVec.ofNat 4 (ob.toNat / 64)).toNat = _
      rw [BitVec.toNat_ofNat, Nat.mod_eq_of_lt (by omega)]
    · exact hist_initState s j
    · exact Bank.cell_replicate 0 j
  · intro illegal
    rw [exec_init_illegal (Bool.eq_false_iff.2 illegal), endStep_of_not_ovr (by exact noOvr)]
    rfl

/-! ## ABSORB and ABSORBW in an open context (40_host_commands.md R89 to R91) -/

/-- Settles O19: ABSORB is `absorbByte` and the end of a step, and `LONG` is set at the new position 64. -/
theorem absorbResult : Obligations.AbsorbResult := by
  unfold Obligations.AbsorbResult
  intro b s phase noOvr
  have long : (absorbByte b s).long = if s.pos + 1 = 64 then true else s.long := by
    rw [absorbByte_long]
    by_cases last : s.pos + 1 = 64
    · rw [if_pos last, decide_eq_true last, Bool.or_true]
    · rw [if_neg last, decide_eq_false last, Bool.or_false]
  rw [exec_absorb_open phase, endStep_of_not_ovr (by exact noOvr), ← long]
  rfl

/-- In an open context without an overrun ABSORB only adds the byte and lowers `BUSY`. -/
theorem exec_absorb_no_overrun {s : State} (phase : s.phase = .absorb) (noOvr : s.ovr = false) (b : Byte) :
    exec (.absorb b) s = .next (absorbByte b (s.withLatches false false)) := by
  rw [exec_absorb_open phase, endStep_of_no_overrun (by exact noOvr)]
  rfl

/-- ABSORB commands absorb their bytes one after the other, and the first of them lowers `BUSY`. -/
theorem execAll_absorb (bs : List Byte) : ∀ s : State, s.phase = .absorb → s.ovr = false → bs ≠ [] →
    execAll (bs.map .absorb) s = .next (absorbBytes bs (s.withLatches false false)) := by
  induction bs with
  | nil => exact fun _ _ _ ne => absurd rfl ne
  | cons b bs ih =>
    intro s phase noOvr _
    rw [List.map_cons, execAll, exec_absorb_no_overrun phase noOvr, thenDo]
    cases bs with
    | nil => rfl
    | cons b' bs => exact ih _ phase rfl (List.cons_ne_nil b' bs)

/-- Settles O20: both are the bytes of `PDATA` absorbed in order, with `BUSY` lowered. -/
theorem absorbwIsAbsorbs : Obligations.AbsorbwIsAbsorbs := by
  unfold Obligations.AbsorbwIsAbsorbs
  intro cnt s low _ phase noOvr
  have some : dataBytes cnt s.pdata ≠ [] := by
    rw [dataBytes, Ne, List.map_eq_nil_iff, List.range_eq_nil]
    omega
  have noOvr' : (absorbBytes (dataBytes cnt s.pdata) s).ovr = false := by rw [absorbBytes_frame]; exact noOvr
  refine ⟨_, exec_absorbw_open phase cnt, ?_⟩
  have commands : (List.range cnt).map (fun k => Instr.absorb (s.pdata.extractLsb' (8 * k) 8)) =
      (dataBytes cnt s.pdata).map .absorb := (List.map_map ..).symm
  rw [commands, execAll_absorb _ s phase noOvr some, endStep_of_no_overrun noOvr', ignoresLatches_absorbBytes]

/-! ## Commands outside an open context (40_host_commands.md R93, R94) -/

/-- The commands that need an open context. -/
def needsContext (i : Instr) : Prop := (∃ b, i = .absorb b) ∨ (∃ cnt, i = .absorbw cnt) ∨ i = .finalize

theorem exec_of_needsContext {i : Instr} (h : needsContext i) : ∃ f, ∀ s, exec i s = inContext s f := by
  rcases h with ⟨b, rfl⟩ | ⟨cnt, rfl⟩ | rfl
  · exact ⟨_, fun s => rfl⟩
  · exact ⟨_, fun s => rfl⟩
  · exact ⟨_, fun s => rfl⟩

/-- Settles O21: each is `inContext` of its effect, and an error that a step raises keeps its code (`endStep_of_error`). -/
theorem outsideContextIsSequenceError : Obligations.OutsideContextIsSequenceError := by
  unfold Obligations.OutsideContextIsSequenceError
  intro i s needs
  obtain ⟨f, run⟩ := exec_of_needsContext needs
  rw [run]
  constructor
  · rintro (idle | done)
    · rw [inContext_idle idle, endStep_of_error (raiseErr_phase _ _)]
      rfl
    · rw [inContext_done done, endStep_of_error (raiseErr_phase _ _)]
      rfl
  · intro error
    rw [inContext_error error, endStep_of_error error]
    rfl

/-- In ERROR every command but INIT only ends its step. -/
theorem exec_of_error {i : Instr} {s : State} (error : s.phase = .error) (noInit : ∀ ob, i ≠ .init ob) :
    exec i s = .next { s with busy := false, ovr := false } := by
  have closed (needs : needsContext i) := (outsideContextIsSequenceError i s needs).2 error
  cases i with
  | nop => exact congrArg Host.Outcome.next (endStep_of_error error)
  | init ob => exact absurd rfl (noInit ob)
  | absorb b => exact closed (.inl ⟨b, rfl⟩)
  | absorbw cnt => exact closed (.inr (.inl ⟨cnt, rfl⟩))
  | finalize => exact closed (.inr (.inr rfl))

/-- Settles O22: the engine's turn is the step of the decoded command, which only INIT makes more than its end. -/
theorem errorPhaseIgnoresAllButInit : Obligations.ErrorPhaseIgnoresAllButInit := by
  unfold Obligations.ErrorPhaseIgnoresAllButInit
  intro s rest error busy turn
  have run : step s = engineStep { s with agenda := rest } := by
    rw [step_of_engineNext turn, engineTurn_of_busy (by exact busy)]
  constructor
  · intro noInit
    cases decoded : decode s.pcmd with
    | ok i =>
      rw [run, engineStep_of_decode (by exact decoded)]
      exact exec_of_error error fun ob eq => noInit ob (eq ▸ decoded)
    | error e => exact (illegalRaisesBadCmd s e rest busy turn decoded).2 error
  · intro ob decoded
    rw [run, engineStep_of_decode (by exact decoded)]
    cases legal : legalOutbits ob with
    | true =>
      refine ⟨_, exec_init_legal legal _, endStep_agenda _, endStep_busy _, endStep_ovr _, fun _ clear => ?_, fun _ latched => ?_,
        nofun⟩
      · rw [endStep_of_no_overrun (by exact clear)]
        exact ⟨rfl, rfl⟩
      · rw [endStep_eq_overrunError, if_pos (by exact latched)]
        exact ⟨rfl, rfl⟩
    | false =>
      refine ⟨_, exec_init_illegal legal _, endStep_agenda _, endStep_busy _, endStep_ovr _, nofun, nofun, fun _ => ?_⟩
      rw [endStep_of_error rfl]
      exact ⟨rfl, rfl⟩

/-! ## FINALIZE in an open context (40_host_commands.md R92) -/

/-- Settles O49: the compressor has a value (`compress_isSome`), and padding keeps `OVR` and `OW` (`padded_frame`). -/
theorem finalizeResult : Obligations.FinalizeResult := by
  unfold Obligations.FinalizeResult
  intro s phase noOvr quantizable
  obtain ⟨acc, compressed⟩ := Option.isSome_iff_exists.1 (compress_isSome quantizable)
  have noOvr' : (publish acc (padded s)).ovr = false := by rw [padded_frame]; exact noOvr
  have ow : (padded s).ow = s.ow := by rw [padded_frame]
  refine ⟨acc, _, compressed, exec_finalize_open phase compressed, ?_, fun k hk => ?_⟩
  · rw [endStep_of_not_ovr noOvr']
    rfl
  · rw [endStep_dig, publish_dig, cell_squeezeInto acc hk, ow]

theorem padCount_succ {pos : Word} (notLast : pos + 1 ≠ 64) : padCount pos = padCount (pos + 1) + 1 := by
  simp only [padCount]
  bv_omega

/-- The padding loop ends with `LONG` set from every position, also from one past 64 (assumption 11). -/
theorem padLoop_padCount_long (n : Nat) : ∀ (seed : Word) (s : State), padCount s.pos = n → (padLoop n seed s).long = true := by
  induction n with
  | zero => exact fun _ _ count => absurd count (Nat.succ_ne_zero _)
  | succ n ih =>
    intro seed s count
    cases long : s.long with
    | true => rwa [padLoop_of_long long]
    | false =>
      rw [padLoop_succ_of_short long]
      by_cases last : s.pos + 1 = 64
      · have isLong : (padOnce (lcg seed) s).long = true := by rw [padOnce_long, decide_eq_true last, Bool.or_true]
        rwa [padLoop_of_long isLong]
      · exact ih _ _ (Nat.succ.inj ((padCount_succ last).symm.trans count))

theorem padded_isLong (s : State) : (padded s).long = true := by
  cases long : s.long with
  | true => rwa [padded_of_long long]
  | false =>
    rw [padded_of_short long]
    exact padLoop_padCount_long _ _ s rfl

/-- Settles O42: the padded walk stays tame, so the compressor has a value for it, and FINALIZE publishes (`finalizeResult`). -/
theorem tameFinalizeCompletes : Obligations.TameFinalizeCompletes := by
  unfold Obligations.TameFinalizeCompletes
  intro s tame phase noOvr
  obtain ⟨amps, -⟩ : (padded s).Tame := padded_keeps padOnce_tame tame
  obtain ⟨acc, t, -, run, result, -⟩ := finalizeResult s phase noOvr ((Bank.tame_iff_upTo _).1 amps).quantizable
  rw [result] at run
  exact ⟨_, run, rfl, padded_isLong s⟩

end Sys2Proof.Machine

namespace Sys2Proof.Machine

/-! ## The padding (41_preprocessor.md R100 to R105) -/

theorem padBytes_length (n : Nat) : ∀ seed : Word, (padBytes n seed).length = n := by
  induction n with
  | zero => exact fun _ => rfl
  | succ n ih => exact fun seed => congrArg (· + 1) (ih (lcg seed))

/-- The generator's step keeps congruence modulo 256: the low byte of the next seed is computed from the low byte alone. -/
theorem padByte_lcg (seed : Word) : padByte (lcg seed) = padByte seed * padByte lcgMul + padByte lcgInc := by
  have add (x y : Word) : padByte (x + y) = padByte x + padByte y := BitVec.setWidth_add x y (by decide)
  have mul (x y : Word) : padByte (x * y) = padByte x * padByte y := BitVec.setWidth_mul x y (by decide)
  rw [lcg, add, mul]

theorem padBytes_congr (n : Nat) : ∀ {a b : Word}, padByte a = padByte b → padBytes n a = padBytes n b := by
  induction n with
  | zero => exact fun _ => rfl
  | succ n ih =>
    intro a b same
    have next : padByte (lcg a) = padByte (lcg b) := by rw [padByte_lcg, padByte_lcg, same]
    rw [padBytes, padBytes, next, ih next]

/-- Settles O44: seeds equal modulo 256 have the same padding byte, and the generator's step keeps that (`padByte_lcg`). -/
theorem paddingReadsSeedModulo256 : Obligations.PaddingReadsSeedModulo256 := by
  unfold Obligations.PaddingReadsSeedModulo256
  intro n a b congruent
  refine padBytes_congr n (BitVec.eq_of_toNat_eq ?_)
  rw [padByte, padByte, BitVec.toNat_setWidth, BitVec.toNat_setWidth]
  exact congruent

/-- Settles O45: `Pad(m)` is `m` followed by `64 - L` bytes, none from 64 on. -/
theorem padExtendsToMinimum : Obligations.PadExtendsToMinimum := by
  unfold Obligations.PadExtendsToMinimum
  intro m
  refine ⟨?_, fun i below => List.getElem?_append_left below, fun long => ?_⟩
  · rw [pad, List.length_append, padBytes_length, minLen]
    omega
  · rw [pad, minLen, Nat.sub_eq_zero_of_le long, padBytes, List.append_nil]

theorem absorbBytes_pos (bs : List Byte) : ∀ s : State, (absorbBytes bs s).pos = s.pos + BitVec.ofNat 64 bs.length := by
  induction bs with
  | nil => exact fun s => (BitVec.add_zero s.pos).symm
  | cons b bs ih =>
    intro s
    rw [absorbBytes_cons, ih, absorbByte_pos, List.length_cons, BitVec.ofNat_add, BitVec.add_comm (BitVec.ofNat 64 bs.length),
      ← BitVec.add_assoc]
    rfl

theorem padCount_last {pos : Word} (last : pos + 1 = 64) : padCount pos = 1 := by
  simp only [padCount]
  bv_omega

theorem add_padCount (pos : Word) : pos + BitVec.ofNat 64 (padCount pos) = 64 := by
  simp only [padCount]
  bv_omega

/-- From `LONG = 0` the padding loop absorbs its bytes as ABSORB does, but for `SUM`. The bytes may be absorbed with any `SUM`: nothing
else reads it. -/
theorem padLoop_eq_absorbBytes (n : Nat) : ∀ (seed : Word) (s : State) (sum : Word), s.long = false → padCount s.pos = n →
    padLoop n seed s = { absorbBytes (padBytes n seed) { s with sum := sum } with sum := s.sum } := by
  induction n with
  | zero => exact fun _ _ _ _ count => absurd count (Nat.succ_ne_zero _)
  | succ n ih =>
    intro seed s sum short count
    have once (t : Word) : absorbByte (padByte (lcg seed)) { s with sum := t } =
        { padOnce (lcg seed) s with sum := t + (padByte (lcg seed)).setWidth 64 } := rfl
    rw [padLoop_succ_of_short short, padBytes, absorbBytes_cons, once]
    by_cases last : s.pos + 1 = 64
    · obtain rfl : n = 0 := Nat.succ.inj (count.symm.trans (padCount_last last))
      rfl
    · have stillShort : (padOnce (lcg seed) s).long = false := by rw [padOnce_long, short, decide_eq_false last, Bool.or_false]
      exact ih _ _ _ stillShort (Nat.succ.inj ((padCount_succ last).symm.trans count))

theorem padTail_eq_absorbBytes {s : State} (short : s.long = false) :
    padTail s = { absorbBytes (padBytes (padCount s.pos) (padSeed s)) s with sum := s.sum } :=
  padLoop_eq_absorbBytes _ _ s s.sum short rfl

theorem padTail_pos {s : State} (short : s.long = false) : (padTail s).pos = 64 := by
  rw [padTail_eq_absorbBytes short, absorbBytes_pos, padBytes_length, add_padCount]

theorem padTail_long (s : State) : (padTail s).long = true := padLoop_padCount_long _ _ s rfl

/-- Settles O43: `PadTail` is the absorption of its bytes but for `SUM` (`padTail_eq_absorbBytes`), and writes the walk, `POS` and `LONG`
only (`padLoop_frame`). -/
theorem padTailResult : Obligations.PadTailResult := by
  unfold Obligations.PadTailResult
  intro s short below
  have count : 64 - s.pos.toNat = padCount s.pos := (Nat.eq_sub_of_add_eq' (padCount_of_lt below)).symm
  rw [count]
  have absorbed := padTail_eq_absorbBytes short
  refine ⟨padBytes_length _ _, ?_, (congrArg State.amps absorbed :), (congrArg State.hb absorbed :), (congrArg State.hptr absorbed :)⟩
  have frame : padTail s = { s with
      amps := (padTail s).amps, hb := (padTail s).hb, hptr := (padTail s).hptr, pos := (padTail s).pos, long := (padTail s).long } :=
    padLoop_frame _ _ s
  rwa [padTail_pos short, padTail_long] at frame

end Sys2Proof.Machine

namespace Sys2Proof.Machine

/-! ## The logistic map driver (42_logistic_map_driver.md) -/

/-- The arithmetic of R108 evaluated for every `x0`, which is how R110 derives the table. -/
theorem hopTable_eq : hopTable = (List.range 256).map fun n => (hopOf (BitVec.ofNat 8 n)).toNat := by decide +kernel

theorem hopTable_tail_reverse : hopTable.tail.reverse = hopTable.tail := by decide +kernel

theorem hopTable_shift_one_iff : ∀ entry ∈ hopTable.zipIdx, entry.1 % 128 = 1 ↔ entry.2 = 113 ∨ entry.2 = 143 := by
  decide +kernel

theorem hopTable_getElem? (x0 : Byte) : hopTable[x0.toNat]? = some (hopOf x0).toNat := by
  rw [hopTable_eq, List.getElem?_map, List.getElem?_range x0.isLt, Option.map_some, BitVec.ofNat_toNat, BitVec.setWidth_eq]

/-- 42_logistic_map_driver.md R110: without its first entry the table reads the same backwards. -/
theorem hopOf_neg {x0 : Byte} (nonzero : x0 ≠ 0) : hopOf (-x0) = hopOf x0 := by
  have length : hopTable.tail.length = 255 := by rw [List.length_tail, hopTable_eq, List.length_map, List.length_range]
  have positive : 0 < x0.toNat := Nat.pos_of_ne_zero fun zero => nonzero (BitVec.eq_of_toNat_eq zero)
  have below := x0.isLt
  have mirror : (-x0).toNat = 255 - 1 - (x0.toNat - 1) + 1 := by bv_omega
  have entries : hopTable[(-x0).toNat]? = hopTable[x0.toNat]? := calc
    hopTable[(-x0).toNat]? = hopTable.tail[255 - 1 - (x0.toNat - 1)]? := by rw [mirror, List.getElem?_tail]
    _ = hopTable.tail.reverse[x0.toNat - 1]? := by rw [List.getElem?_reverse (by omega), length]
    _ = hopTable[x0.toNat]? := by rw [hopTable_tail_reverse, List.getElem?_tail, Nat.sub_add_cancel positive]
  rw [hopTable_getElem?, hopTable_getElem?] at entries
  exact BitVec.eq_of_toNat_eq (Option.some.inj entries)

/-- 42_logistic_map_driver.md R110, R111: where the shift is 1. -/
theorem hopOf_shift_one_iff (x0 : Byte) : (hopOf x0).toNat % 128 = 1 ↔ x0 = 113 ∨ x0 = 143 := by
  have entry : ((hopOf x0).toNat, x0.toNat) ∈ hopTable.zipIdx := List.mem_zipIdx_iff_getElem?.mpr (hopTable_getElem? x0)
  rw [BitVec.toNat_eq (y := 113), BitVec.toNat_eq (y := 143)]
  exact hopTable_shift_one_iff _ entry

/-- `x0` as 42_logistic_map_driver.md R108 writes it. -/
theorem hop_eq (b : Byte) (i : Word) : hop b i = hopOf (BitVec.ofNat 8 ((b.toNat + i.toNat % 256 + 1) % 256)) :=
  congrArg hopOf <| BitVec.eq_of_toNat_eq <| by simp [Nat.add_right_comm]

/-- Settles O30: the four properties of the table of R110, each read off its entries but for the operand of `hop` (`hop_eq`). -/
theorem hopIsTheTable : Obligations.HopIsTheTable := by
  refine ⟨fun x0 => ?_, fun b i => ?_, fun x0 nonzero => (hopOf_neg nonzero).symm, hopOf_shift_one_iff⟩
  · rw [List.getD_eq_getElem?_getD, hopTable_getElem?, Option.getD_some]
  · rw [hop_eq, Nat.add_right_comm, Nat.add_mod_mod, Nat.add_right_comm]

/-- Settles O31: `hop_eq` shows the position modulo 256 only, and the shift amount reads the hop only (R111). -/
theorem hopReadsPositionModulo256 : Obligations.HopReadsPositionModulo256 := by
  intro b i j same
  have hops : hop b i = hop b j := by rw [hop_eq, hop_eq, same]
  exact ⟨hops, by rw [shiftAmount, shiftAmount, hops]⟩

end Sys2Proof.Machine

namespace Sys2Proof.Machine

/-! ## The chaotic state evolver (43_chaotic_state_evolver.md) -/

/-- A cell depends on its index modulo the size only (10_state.md R26). -/
theorem Bank.cell_congr {n : Nat} {α : Type} [NeZero n] (v : Bank n α) {j k : Nat} (same : j % n = k % n) : v.cell j = v.cell k := by
  rw [← v.cell_mod j, same, v.cell_mod]

/-! ### The shifted copies over the integers, as R115 writes their indices -/

theorem cell_lsh (v : Amps) (s k : Nat) : (lsh v s).cell k = v.cell ((k + s : Int) % 512).toNat := by
  rw [lsh, Bank.cell_rotate]
  refine v.cell_congr ?_
  simp only [Config.ns]
  omega

theorem cell_rsh (v : Amps) (s k : Nat) : (rsh v s).cell k = v.cell ((k - s : Int) % 512).toNat := by
  rw [rsh, Bank.cell_rotate]
  refine v.cell_congr ?_
  simp only [Config.ns]
  omega

/-- Settles O32: the combined element is the weighted sum of the elements of the four copies (R116), each read by `cell_lsh` or
`cell_rsh`. -/
theorem combineElementwise : Obligations.CombineElementwise := by
  intro v b i k _
  simp only [combine, cell_plus, cell_scaleBy, cell_lsh, cell_rsh]
  rfl

/-- Settles O33: scaling and adding vectors act on each element (`cell_scaleBy`, `cell_plus`). -/
theorem blendElementwise : Obligations.BlendElementwise := by
  intro n oldest mid k _
  simp only [blend, cell_plus, cell_scaleBy]
  rfl

/-! ### The periodic renormalisation (R120) -/

theorem periodic_of_multiple {i : Word} (multiple : i.toNat % 8 = 0) (t : Amps) : periodic i t = renorm t := if_pos multiple

theorem periodic_of_not_multiple {i : Word} (between : i.toNat % 8 ≠ 0) (t : Amps) : periodic i t = t := if_neg between

/-- Settles O34: the frame of the step, the move of the history at each of its four places (`hist_evolveStep`), and the two cases of
the periodic renormalisation. -/
theorem evolutionStepResult : Obligations.EvolutionStepResult := by
  intro b i s
  have moved {j : Nat} (older : j < 3) : (evolveStep b i s).hist j = s.hist (j + 1) := by
    rw [hist_evolveStep b i s (older.trans (by decide)), if_neg older.ne]
  have newest : (evolveStep b i s).hist 3 = stabilized b i s.amps (s.hist 0) (s.hist 2) (s.hist 3) :=
    hist_evolveStep b i s (by decide)
  exact ⟨evolveStep_frame b i s, moved (by decide), moved (by decide), moved (by decide), newest,
    fun multiple => periodic_of_multiple multiple _, fun between => periodic_of_not_multiple between _⟩

end Sys2Proof.Machine

namespace Sys2Proof.Machine

/-! ## The complex state normalizer (44_complex_state_normalizer.md) -/

/-! ### The norm's order of summation (R126) -/

/-- The cells of a bank, in index order. -/
theorem Bank.cells_eq_map_range {n : Nat} {α : Type} [NeZero n] (b : Bank n α) : b.cells = (List.range n).map b.cell := by
  refine List.ext_getElem (by rw [b.size, List.length_map, List.length_range]) fun i hi _ => ?_
  have inside : i % n = i := Nat.mod_eq_of_lt (b.size ▸ hi)
  simp only [List.getElem_map, List.getElem_range, Bank.cell_eq_getElem, inside]

/-- The sum of the squares of one part `f` of every element. -/
theorem normReduce_map (f : Cplx → Real64) (v : Amps) : normReduce (v.cells.map f) =
    (List.range 512).foldl (fun sum k => fadd sum (fmul (f (v.cell k)) (f (v.cell k)))) 0#64 := by
  rw [v.cells_eq_map_range, normReduce, List.foldl_map, List.foldl_map]
  rfl

/-- Settles O35: each of the two sums runs over the bank's cells, which stand in index order (`normReduce_map`). -/
theorem normSumsInIndexOrder : Obligations.NormSumsInIndexOrder := by
  intro v
  rw [vecNorm, normReduce_map, normReduce_map]

/-! ### Scaling by the norm, element by element (R128 to R130) -/

/-- Every element is divided by a norm above 1e-15 and kept under any other, a NaN included. -/
theorem cell_scaleByNorm (v : Amps) (n : Real64) (k : Nat) :
    (scaleByNorm v n).cell k = if flt normEps n then (v.cell k).over n else v.cell k := by
  rw [scaleByNorm]
  split
  · exact Bank.cell_map ..
  · rfl

/-- Settles O36: the extra pass is the scaling by the vector's own norm (`cell_scaleByNorm`). -/
theorem renormElementwise : Obligations.RenormElementwise := fun v k _ => cell_scaleByNorm v (vecNorm v) k

/-! ### The degeneracy test (R127) -/

/-- Away from the NaNs, `a <= b` is the negation of `b < a`. -/
theorem fle_eq_not_flt {a b : Real64} (ha : datumOf a ≠ .nan) (hb : datumOf b ≠ .nan) : fle a b = !flt b a := by
  rw [fle, flt]
  split
  · next nan => exact absurd nan ha
  · next nan _ => exact absurd nan hb
  · rfl

theorem datumOf_ne_nan_of_isFinite {a : Real64} (finite : isFinite a = true) : datumOf a ≠ .nan := by
  intro nan
  rw [isFinite, nan] at finite
  exact Bool.false_ne_true finite

/-- A norm passes the degeneracy test when it is finite and above 1e-300: it is then no NaN, so the test's `n <= 1e-300` is the negation
of `1e-300 < n`. -/
theorem degenerate_eq_false_iff (n : Real64) : degenerate n = false ↔ isFinite n = true ∧ flt degenEps n = true := by
  rw [degenerate, Bool.or_eq_false_iff, Bool.not_eq_false']
  refine and_congr_right fun finite => ?_
  rw [fle_eq_not_flt (datumOf_ne_nan_of_isFinite finite) (by decide), Bool.not_eq_false']

theorem stabilize_of_degenerate {v : Amps} (lost : degenerate (vecNorm v) = true) (newest : Amps) :
    stabilize newest v = scaleByNorm newest (vecNorm newest) := if_pos lost

theorem stabilize_of_not_degenerate {v : Amps} (kept : degenerate (vecNorm v) = false) (newest : Amps) :
    stabilize newest v = scaleByNorm v (vecNorm v) := if_neg (Bool.eq_false_iff.1 kept)

/-- Settles O37: the degeneracy test decides which vector is scaled (`degenerate_eq_false_iff`), and either is scaled element by element
(`cell_scaleByNorm`). -/
theorem stabilizeBranches : Obligations.StabilizeBranches := by
  intro newest v k _
  constructor
  · intro sound
    rw [stabilize_of_not_degenerate ((degenerate_eq_false_iff _).2 sound)]
    exact cell_scaleByNorm v (vecNorm v) k
  · intro unsound
    have lost : degenerate (vecNorm v) = true := Bool.of_not_eq_false fun kept => unsound ((degenerate_eq_false_iff _).1 kept)
    rw [stabilize_of_degenerate lost]
    exact cell_scaleByNorm newest (vecNorm newest) k

end Sys2Proof.Machine

namespace Sys2Proof.Machine

/-! ## The amplitude compressor (45_amplitude_compressor.md) -/

/-! ### The quantised value (R135, R139) -/

/-- The comparison with +0.0 is `quantize`'s own test for a negative product. -/
theorem less_zero_fin (neg : Bool) (mag : Nat) : (Datum.fin neg mag).less (.fin false 0) = decide (neg = true ∧ 0 < mag) := by
  cases neg <;> simp [Datum.less]

/-- A natural number has a word exactly when it is that word's value. -/
theorem toWord_eq_some_iff (n : Nat) (v : Word) :
    (if n < 2 ^ 64 then some (BitVec.ofNat 64 n) else none) = some v ↔ (n : Int) = v.toNat := by
  have below := v.isLt
  split
  · next inRange => rw [Option.some_inj, BitVec.toNat_eq, BitVec.toNat_ofNat, Nat.mod_eq_of_lt inRange, Nat.cast_inj]
  · next outOfRange => exact ⟨nofun, fun same => by omega⟩

/-- Settles O46: only a finite product has either side, and a negative one has neither. Any other truncates to its magnitude in whole
units, which is the value if it fits a word (`toWord_eq_some_iff`). -/
theorem quantizeIsTruncatedProduct : Obligations.QuantizeIsTruncatedProduct := by
  unfold Obligations.QuantizeIsTruncatedProduct
  intro z v
  change quantize z = some v ↔ trunc (fmul z.normSq qScale) = some (v.toNat : Int) ∧ flt (fmul z.normSq qScale) posZero = false
  rw [quantize, trunc, flt, datumOf_posZero]
  cases datumOf (fmul z.normSq qScale) with
  | nan => exact ⟨nofun, nofun⟩
  | inf neg => exact ⟨nofun, nofun⟩
  | fin neg mag =>
    rw [less_zero_fin, decide_eq_false_iff_not]
    by_cases negative : neg = true ∧ 0 < mag
    · simp only [negative, and_self, if_true, not_true, and_false, reduceCtorEq]
    · have truncated : (if neg = true then -((mag / unit64 : Nat) : Int) else (mag / unit64 : Nat)) = (mag / unit64 : Nat) := by
        cases neg with
        | false => rfl
        | true =>
          obtain rfl : mag = 0 := Nat.eq_zero_of_not_pos fun positive => negative ⟨rfl, positive⟩
          rw [Nat.zero_div]
          rfl
      simp only [negative, truncated, if_false, Option.some_inj, not_false_eq_true, and_true]
      exact toWord_eq_some_iff _ v

/-! ### When the compressor has a value (R139) -/

theorem compressFrom_cons_eq_some_iff {i : Nat} {z : Cplx} {zs : List Cplx} {acc r : Bank Config.aw Word} :
    compressFrom i (z :: zs) acc = some r ↔ ∃ v, quantize z = some v ∧ compressFrom (i + 1) zs (mixSlot acc i v) = some r := by
  cases value : quantize z <;> simp [compressFrom, value]

theorem isSome_quantize_of_compressFrom {r : Bank Config.aw Word} (zs : List Cplx) :
    ∀ {i acc}, compressFrom i zs acc = some r → ∀ z ∈ zs, (quantize z).isSome = true := by
  induction zs with
  | nil => exact fun _ => List.forall_mem_nil _
  | cons z zs ih =>
    intro i acc h
    obtain ⟨v, value, rest⟩ := compressFrom_cons_eq_some_iff.1 h
    exact List.forall_mem_cons.2 ⟨Option.isSome_of_eq_some value, ih rest⟩

theorem compress_eq_none_iff (v : Amps) : compress v = none ↔ ¬ v.quantizable := by
  constructor
  · intro noValue quantizable
    have value := compress_isSome quantizable
    rw [noValue] at value
    cases value
  · intro outOfRange
    exact Option.eq_none_iff_forall_ne_some.2 fun acc compressed =>
      outOfRange (isSome_quantize_of_compressFrom v.cells compressed)

theorem exec_finalize_open_none {s : State} (phase : s.phase = .absorb) (noValue : compress (padded s).amps = none) :
    exec .finalize s = .fault .quantRange := by
  change execFinalize s = _
  rw [execFinalize, inContext_absorb phase, noValue]

/-- Settles O50: FINALIZE stops when the compressor has no value (`exec_finalize_open_none`) and publishes when it has one
(`exec_finalize_open`). -/
theorem finalizeFaultsExactlyOutOfRange : Obligations.FinalizeFaultsExactlyOutOfRange := by
  unfold Obligations.FinalizeFaultsExactlyOutOfRange
  intro s phase
  change _ ↔ ¬ (padded s).amps.quantizable
  rw [← compress_eq_none_iff]
  refine ⟨fun stops => ?_, exec_finalize_open_none phase⟩
  cases compressed : compress (padded s).amps with
  | none => rfl
  | some acc => cases (exec_finalize_open phase compressed).symm.trans stops

/-! ### The slots (R134, R136, R137) -/

/-- What the update at position `i` with the quantised value `v` makes of its slot's word `a` (R136). -/
def slotMix (i : Nat) (v a : Word) : Word :=
  rotl64 (a ^^^ (rotl64 v (i % cRotMod) * cMul)) cRot + BitVec.ofNat 64 i * cAdd

/-- The update at position `i` mixes slot `i mod 8` and keeps the others. -/
theorem cell_mixSlot (acc : Bank Config.aw Word) (i : Nat) (v : Word) (j : Nat) :
    (mixSlot acc i v).cell j = if i % 8 = j % 8 then slotMix i v (acc.cell j) else acc.cell j := by
  have update : mixSlot acc i v = acc.put i (slotMix i v (acc.cell i)) := rfl
  rw [update, Bank.cell_put]
  refine ite_congr rfl (fun same => ?_) fun _ => rfl
  rw [acc.cell_congr same]

/-- A slot sees the updates at its own positions only, in their order. -/
theorem cell_foldl_mixSlot (q : Nat → Word) (positions : List Nat) (acc : Bank Config.aw Word) (j : Nat) :
    (positions.foldl (fun a i => mixSlot a i (q i)) acc).cell j =
      (positions.filter (· % 8 = j % 8)).foldl (fun a i => slotMix i (q i) a) (acc.cell j) := by
  rw [List.foldl_filter]
  refine (List.foldl_hom (Bank.cell · j) fun a i => ?_).symm
  simp only [cell_mixSlot, decide_eq_true_eq]

/-- The positions of slot `j` among the first `n` rounds of eight. -/
theorem filter_range_slot {j : Nat} (slot : j < 8) (n : Nat) :
    (List.range (8 * n)).filter (· % 8 = j % 8) = (List.range n).map (j + 8 * ·) := by
  induction n with
  | zero => rfl
  | succ n ih =>
    have round : (List.range 8).filter (· % 8 = j % 8) = [j] := by
      interval_cases j <;> rfl
    rw [Nat.mul_succ, List.range_add, List.filter_append, ih, List.filter_map, List.range_succ (n := n), List.map_append]
    simp only [Function.comp_def, Nat.mul_add_mod, round, List.map_cons, List.map_nil, Nat.add_comm j]

/-- The compressor's value is the run of the updates, each with its element's quantised value. -/
theorem compressFrom_map_range' (f : Nat → Cplx) {r : Bank Config.aw Word} (n : Nat) :
    ∀ {i acc}, compressFrom i ((List.range' i n).map f) acc = some r →
      r = (List.range' i n).foldl (fun a k => mixSlot a k ((quantize (f k)).getD 0)) acc := by
  induction n with
  | zero => exact fun h => (Option.some.inj h).symm
  | succ n ih =>
    intro i acc h
    rw [List.range'_succ, List.map_cons] at h
    obtain ⟨v, value, rest⟩ := compressFrom_cons_eq_some_iff.1 h
    rw [List.range'_succ, List.foldl_cons, value]
    exact ih rest

theorem eq_foldl_of_compress {v : Amps} {acc : Bank Config.aw Word} (compressed : compress v = some acc) :
    acc = (List.range 512).foldl (fun a i => mixSlot a i ((quantize (v.cell i)).getD 0)) (Bank.replicate Config.aw 0) := by
  rw [compress, v.cells_eq_map_range, List.range_eq_range'] at compressed
  rw [List.range_eq_range']
  exact compressFrom_map_range' v.cell _ compressed

/-- Settles O47: the compressor runs its updates over all 512 positions (`eq_foldl_of_compress`), and slot `j` sees those at
`j, j + 8, ..., j + 504` (`cell_foldl_mixSlot`, `filter_range_slot`). -/
theorem compressSlotBySlot : Obligations.CompressSlotBySlot := by
  unfold Obligations.CompressSlotBySlot
  intro v acc compressed j slot
  rw [eq_foldl_of_compress compressed, cell_foldl_mixSlot, filter_range_slot slot 64, List.foldl_map, Bank.cell_replicate]
  rfl

end Sys2Proof.Machine

namespace Sys2Proof.Machine

/-! ## The output squeezer (46_output_squeezer.md) -/

/-! ### Rotations (00_scope.md R11) -/

theorem getLsbD_rotl64 (v : Word) {r i : Nat} (hr : r < 64) (hi : i < 64) :
    (rotl64 v r).getLsbD i = v.getLsbD ((i + (64 - r)) % 64) := by
  rw [rotl64]
  split
  · next unmoved =>
    rw [unmoved, Nat.sub_zero, Nat.add_mod_right, Nat.mod_eq_of_lt hi]
  · rw [BitVec.getLsbD_or, BitVec.getLsbD_shiftLeft, BitVec.getLsbD_ushiftRight, decide_eq_true hi, Bool.true_and]
    rcases Nat.lt_or_ge i r with wrapped | moved
    · rw [decide_eq_true wrapped, Bool.not_true, Bool.false_and, Bool.false_or, Nat.mod_eq_of_lt (by omega), Nat.add_comm]
    · rw [decide_eq_false (Nat.not_lt.2 moved), Bool.not_false, Bool.true_and, BitVec.getLsbD_of_ge v (64 - r + i) (by omega),
        Bool.or_false, show (i + (64 - r)) % 64 = i - r by omega]

theorem rotl64_xor (v w : Word) {r : Nat} (hr : r < 64) : rotl64 (v ^^^ w) r = rotl64 v r ^^^ rotl64 w r :=
  BitVec.eq_of_getLsbD_eq fun i hi => by
    rw [BitVec.getLsbD_xor, getLsbD_rotl64 _ hr hi, getLsbD_rotl64 _ hr hi, getLsbD_rotl64 _ hr hi, BitVec.getLsbD_xor]

theorem rotl64_rotl64 (v : Word) {a b : Nat} (ha : a < 64) (hb : b < 64) : rotl64 (rotl64 v a) b = rotl64 v ((a + b) % 64) :=
  BitVec.eq_of_getLsbD_eq fun i hi => by
    rw [getLsbD_rotl64 _ hb hi, getLsbD_rotl64 _ ha (by omega), getLsbD_rotl64 _ (by omega) hi]
    congr 1
    omega

/-! ### The inner pass (R143, R144) -/

theorem squeezeRound_eq_xor (w a : Word) : squeezeRound w a = rotl64 w sRot ^^^ squeezeRound 0#64 a := by
  rw [squeezeRound, squeezeRound, rotl64_xor w _ (by decide), BitVec.zero_xor]

/-- A pass over `n` words rotates its start by `21 n` bits, and what the words add to it does not depend on the start. -/
theorem foldl_squeezeRound (as : List Word) : ∀ w : Word,
    as.foldl squeezeRound w = rotl64 w (sRot * as.length % 64) ^^^ as.foldl squeezeRound 0#64 := by
  induction as with
  | nil =>
    intro w
    rw [List.length_nil, Nat.mul_zero, Nat.zero_mod, rotl64_zero, List.foldl_nil, List.foldl_nil, BitVec.xor_zero]
  | cons a as ih =>
    intro w
    have turn : (sRot + sRot * as.length % 64) % 64 = sRot * (a :: as).length % 64 := by
      rw [Nat.add_mod_mod, List.length_cons, Nat.mul_succ, Nat.add_comm]
    have range : sRot * as.length % 64 < 64 := Nat.mod_lt _ (by decide)
    calc (a :: as).foldl squeezeRound w
      _ = rotl64 (squeezeRound w a) (sRot * as.length % 64) ^^^ as.foldl squeezeRound 0#64 := ih _
      _ = rotl64 w (sRot * (a :: as).length % 64) ^^^
            (rotl64 (squeezeRound 0#64 a) (sRot * as.length % 64) ^^^ as.foldl squeezeRound 0#64) := by
          rw [squeezeRound_eq_xor, rotl64_xor _ _ range, rotl64_rotl64 w (by decide) range, turn, BitVec.xor_assoc]
      _ = rotl64 w (sRot * (a :: as).length % 64) ^^^ (a :: as).foldl squeezeRound 0#64 := by rw [← ih]; rfl

/-- The eight rounds rotate by 168 bits, which is 40 modulo 64. -/
theorem squeezeWord_eq_xor (acc : Bank Config.aw Word) (k : Nat) :
    squeezeWord acc k = rotl64 (acc.cell k) 40 ^^^ acc.cells.foldl squeezeRound 0#64 := by
  rw [squeezeWord, foldl_squeezeRound, acc.size]
  rfl

theorem squeezeWord_replicate_zero (k : Nat) : squeezeWord (Bank.replicate Config.aw 0) k = 0 := by
  rw [squeezeWord, Bank.cell_replicate]
  decide

theorem eq_replicate_of_cell {acc : Bank Config.aw Word} {w : Word} (same : ∀ k, k < Config.aw → acc.cell k = w) :
    acc = Bank.replicate Config.aw w :=
  Bank.ext_cell fun k hk => (same k hk).trans (Bank.cell_replicate w k).symm

theorem squeeze_eq_take (acc : Bank Config.aw Word) {n m : Nat} (le : n ≤ m) : squeeze acc n = (squeeze acc m).take n := by
  rw [squeeze, squeeze, ← List.map_take, List.take_range, Nat.min_eq_left le]

/-- Settles O48: a shorter output takes fewer word indices (`squeeze_eq_take`), the common word is the pass from 0
(`squeezeWord_eq_xor`), and a zero accumulator is the bank of zeros, whose pass is evaluated. -/
theorem squeezeStructure : Obligations.SqueezeStructure := by
  unfold Obligations.SqueezeStructure
  refine ⟨fun acc n le => squeeze_eq_take acc le, fun acc => ⟨_, fun k _ => squeezeWord_eq_xor acc k⟩, fun acc zero k _ => ?_⟩
  rw [eq_replicate_of_cell zero, squeezeWord_replicate_zero]

end Sys2Proof.Machine

namespace Sys2Proof.Machine

/-! ## The reference host driver (70_reset_and_hazards.md R185, R186) -/

/-- The driver's sendings: `wr DATA` and `absorbw` for each run. -/
def runSends (runs : List (List Byte)) : List Send := runs.map fun r => .word r.length (load8 r)

theorem sendRuns_eq_sendAll (runs : List (List Byte)) : sendRuns runs = sendAll (runSends runs) := by
  induction runs with
  | nil => rfl
  | cons r runs ih =>
    funext s
    rw [sendRuns, ih]
    rfl

/-- The driver's commands are its first wait and one whole context (40_host_commands.md R80, R97). -/
theorem driveBytes_eq (m : List Byte) (n : Nat) (s : State) :
    driveBytes m n s = thenDo (engineTurn s) (runContext (BitVec.ofNat 16 n) (runSends (runsOf8 m))) := by
  rw [driveBytes, sendRuns_eq_sendAll]
  rfl

theorem wellFormed_of_mem_runSends (m : List Byte) : ∀ x ∈ runSends (runsOf8 m), x.wellFormed = true := by
  refine List.forall_mem_map.2 fun r hr => ?_
  obtain ⟨low, high⟩ := length_of_mem_runsOf8 m r hr
  rw [Send.wellFormed, Instr.wellFormed, decide_eq_true low, decide_eq_true high]
  rfl

theorem bytes_runSends (m : List Byte) : (runSends (runsOf8 m)).flatMap Send.bytes = m := by
  have loaded : ∀ r ∈ runsOf8 m, dataBytes r.length (load8 r) = r := fun r hr =>
    dataBytes_load8 r (length_of_mem_runsOf8 m r hr).2
  calc (runSends (runsOf8 m)).flatMap Send.bytes
    _ = ((runsOf8 m).map fun r => dataBytes r.length (load8 r)).flatten := by
        rw [runSends, List.flatMap_def, List.map_map]
        rfl
    _ = m := by rw [List.map_congr_left loaded, List.map_id', flatten_runsOf8]

/-- After the first wait no command is pending and no overrun is latched. -/
theorem latches_of_engineTurn {s t : State} (latched : s.ovr = true → s.busy = true) (h : engineTurn s = .next t) :
    t.busy = false ∧ t.ovr = false := by
  cases busy : s.busy with
  | false =>
    rw [engineTurn_of_idle busy] at h
    cases h
    exact ⟨busy, Bool.eq_false_iff.2 fun ovr => Bool.eq_false_iff.1 busy (latched ovr)⟩
  | true =>
    rw [engineTurn_of_busy busy] at h
    obtain ⟨u, -, rfl⟩ := engineStep_effect h
    exact ⟨endStep_busy u, endStep_ovr u⟩

/-- In phase DONE the driver reports what the `DIGEST` registers below `OW` hold. -/
theorem report_of_done {n : Nat} {s : State} {ws : List Word} (phase : s.phase = .done) (ow : s.ow.toNat = n / 64)
    (size : ws.length = n / 64) (words : ∀ k, k < s.ow.toNat → ws[k]? = some (s.dig.cell k)) :
    report n s = .digest (hexText ws) := by
  rw [report, if_pos phase]
  congr 2
  refine List.ext_getElem (by rw [List.length_map, List.length_range, size]) fun k hk hk' => ?_
  have below : k < s.ow.toNat := by omega
  rw [List.getElem_map, List.getElem_range, digestWord, if_pos ⟨phase, below⟩]
  exact (List.getElem?_eq_some_iff.1 (words k below)).2.symm

theorem driverAccepts_iff (bits : Int) : driverAccepts bits = true ↔ 64 ≤ bits ∧ bits ≤ 512 ∧ bits % 64 = 0 := by
  simp only [driverAccepts, Bool.and_eq_true, decide_eq_true_eq, and_assoc]

theorem driverHash_bytes (utf8Encode : String → Option (List Byte)) (m : List Byte) (bits : Int) (s : State) :
    driverHash utf8Encode (.bytes m) bits s =
      if driverAccepts bits then thenDo (driveBytes m bits.toNat s) fun t => .next (report bits.toNat t, t)
      else .next (.configurationError, s) := rfl

/-- From every state without a pending command the driver's context ends with the digest in its registers. -/
theorem runContext_runSends_report {s : State} (idle : s.busy = false) (noOvr : s.ovr = false) (m : List Byte) {n : Nat}
    (low : 64 ≤ n) (high : n ≤ 512) (aligned : n % 64 = 0) :
    ∃ ws t, digest m n = some ws ∧ runContext (BitVec.ofNat 16 n) (runSends (runsOf8 m)) s = .next t ∧
      report n t = .digest (hexText ws) := by
  have length : (BitVec.ofNat 16 n).toNat = n := by rw [BitVec.toNat_ofNat, Nat.mod_eq_of_lt (by omega)]
  have legal : legalOutbits (BitVec.ofNat 16 n) = true := by
    rw [legalOutbits_iff, length]
    exact ⟨aligned, low, high⟩
  obtain ⟨t, ws, run, phase, -, ow, hws, words⟩ :=
    contextComputesDigest s _ _ idle noOvr legal (wellFormed_of_mem_runSends m)
  rw [bytes_runSends, length] at hws
  rw [length] at ow
  obtain ⟨ws', hws', size⟩ := digestAlwaysDefined m n
  cases hws.symm.trans hws'
  exact ⟨ws, t, hws, run, report_of_done phase ow size words⟩

/-- Settles O53: the two rejections issue no command, and an accepted call is the first wait (`latches_of_engineTurn`) and one context
(`driveBytes_eq`) that computes the digest (`runContext_runSends_report`). -/
theorem driverReportsDigest : Obligations.DriverReportsDigest := by
  unfold Obligations.DriverReportsDigest
  intro utf8Encode s bits
  refine ⟨fun x rejected => ?_, fun x m encoded => ?_, fun m => ⟨fun refused => ?_, fun accepted latched ⟨s0, waited⟩ => ?_⟩⟩
  · rw [driverHash, messageOf, rejected]
  · rw [driverHash, messageOf, encoded]
    rfl
  · rw [driverHash_bytes, if_neg (mt (driverAccepts_iff bits).1 refused)]
  · obtain ⟨low, high, aligned⟩ := accepted
    obtain ⟨idle, noOvr⟩ := latches_of_engineTurn latched waited
    obtain ⟨ws, t, hws, run, reported⟩ := runContext_runSends_report idle noOvr m (n := bits.toNat)
      (by omega) (by omega) (by omega)
    refine ⟨ws, t, hws, ?_⟩
    rw [driverHash_bytes, if_pos ((driverAccepts_iff bits).2 ⟨low, high, aligned⟩), driveBytes_eq, waited, thenDo, run, thenDo,
      reported]

end Sys2Proof.Machine

namespace Sys2Proof.Machine

/-! ## Precise errors, and the ways out of ERROR (60_exceptions.md R153, R161 to R163) -/

section Errors

variable {s u : State} {r : Except Illegal Instr}

/-- `OVR` is the host's to set and the end of the step's to clear. -/
theorem Effect.ovr (h : Effect s r u) : u.ovr = s.ovr := by
  cases h with
  | word => rw [absorbBytes_frame]
  | finalized => rw [padded_frame]; rfl
  | _ => rfl

/-- The effects that enter phase ERROR. -/
theorem Effect.raises (h : Effect s r u) (clear : s.phase ≠ .error) (error : u.phase = .error) :
    u = rejectConfig s ∨ u = raiseErr .sequence s ∨ (u = raiseErr .badCmd s ∧ ∃ e, r = .error e) := by
  cases h with
  | rejected => exact .inl rfl
  | misplaced => exact .inr (.inl rfl)
  | illegal => exact .inr (.inr ⟨rfl, _, rfl⟩)
  | ignored | byte => exact absurd error clear
  | word => rw [absorbBytes_frame] at error; exact absurd error clear
  | opened | finalized => cases error

/-- The one effect that leaves phase ERROR. -/
theorem Effect.leaves_error (h : Effect s r u) (error : s.phase = .error) (left : u.phase ≠ .error) :
    ∃ ob, r = .ok (.init ob) ∧ legalOutbits ob = true := by
  cases h with
  | opened legal => exact ⟨_, rfl, legal⟩
  | ignored => exact absurd error left
  | misplaced | illegal | rejected => exact absurd rfl left
  | byte phase | word phase | finalized phase => cases phase.symm.trans error

end Errors

/-- Settles O24: without an overrun the end of a step only lowers `BUSY`, and a decoded command's effect enters ERROR by
`rejectConfig` or by raising SEQUENCE (`Effect.raises`). -/
theorem errorsArePrecise : Obligations.ErrorsArePrecise := by
  unfold Obligations.ErrorsArePrecise
  intro i s t noOvr clear run error
  obtain ⟨u, effect, rfl⟩ := exec_effect run
  rw [endStep_of_not_ovr (effect.ovr.trans noOvr)] at error ⊢
  rcases effect.raises clear error with rfl | rfl | ⟨-, e, decoded⟩
  · exact .inl ⟨rfl, rfl⟩
  · exact .inr ⟨rfl, rfl⟩
  · cases decoded

/-- Settles O25: of everything a step does (`stepped_of_step`), only reset and an engine step write `PHASE`. The end of an engine step
never leaves ERROR, and its effect only by a legal INIT (`Effect.leaves_error`). -/
theorem onlyInitOrResetLeavesError : Obligations.OnlyInitOrResetLeavesError := by
  unfold Obligations.OnlyInitOrResetLeavesError
  intro s t error next left
  cases stepped_of_step next with
  | reset agenda => exact .inl ⟨_, agenda⟩
  | @executed rest u turn busy effect =>
    have left' : u.phase ≠ .error := fun h => left (by rw [endStep_phase, h, ite_self])
    exact .inr ⟨⟨rest, turn⟩, busy, effect.leaves_error error left'⟩
  | _ => exact absurd error left

/-! ## The stores outside an open context (70_reset_and_hazards.md R172) -/

/-- The relation of R172: no difference, or none but in the stores while no context is open. -/
def AgreeOutsideStores (s t : State) : Prop := s = t ∨ SameButStores s t

section ClosedStores

variable {s t : State}

/-- What is read off a state without its stores is the same in both. -/
theorem SameButStores.congr (h : SameButStores s t) {α : Type} (f : State → α)
    (hf : ∀ (s : State) amps hb, f { s with amps := amps, hb := hb } = f s) : f t = f s := by
  obtain ⟨-, same⟩ := h
  exact (congrArg f same).trans (hf s t.amps t.hb)

theorem SameButStores.phase (h : SameButStores s t) : t.phase = s.phase := h.congr State.phase fun _ _ _ => rfl

theorem SameButStores.busy (h : SameButStores s t) : t.busy = s.busy := h.congr State.busy fun _ _ _ => rfl

/-- No register shows the stores. -/
theorem SameButStores.regValue (h : SameButStores s t) (r : Reg) : regValue r t = regValue r s := by
  refine h.congr (Machine.regValue r) fun _ _ _ => ?_
  cases r with
  | _ => rfl

/-! ### The host's side -/

theorem setAgenda_sameButStores (agenda : List Event) (h : SameButStores s t) :
    SameButStores { s with agenda := agenda } { t with agenda := agenda } := by
  obtain ⟨closed, same⟩ := h
  exact ⟨closed, congrArg (fun u => { u with agenda := agenda }) same⟩

theorem record_sameButStores (r : BusReply) (h : SameButStores s t) : SameButStores (record r s) (record r t) := by
  obtain ⟨closed, same⟩ := h
  exact ⟨closed, congrArg (record r) same⟩

theorem hostRead_sameButStores (addr width : Nat) (h : SameButStores s t) :
    SameButStores (hostRead addr width s) (hostRead addr width t) := by
  unfold hostRead
  cases windowOffset addr with
  | none => exact record_sameButStores .outside h
  | some off =>
    cases adm : admitted off width with
    | false => simp only [memRead_refused adm]; exact record_sameButStores _ h
    | true => simp only [memRead_admitted adm, h.regValue]; exact record_sameButStores _ h

theorem writeCmd_sameButStores (v : Word) (h : SameButStores s t) : SameButStores (writeCmd v s) (writeCmd v t) := by
  have sameBusy := h.busy
  obtain ⟨closed, same⟩ := h
  cases busy : s.busy with
  | true =>
    rw [writeCmd, if_pos busy, writeCmd, if_pos (sameBusy.trans busy)]
    exact ⟨closed, congrArg (fun u => { u with ovr := true }) same⟩
  | false =>
    rw [writeCmd_of_idle busy, writeCmd_of_idle (sameBusy.trans busy)]
    exact ⟨closed, congrArg (acceptCommand v) same⟩

theorem writeReg_sameButStores (r : Reg) (v : Word) (h : SameButStores s t) : SameButStores (writeReg r v s) (writeReg r v t) := by
  cases r with
  | cmd => exact writeCmd_sameButStores v h
  | data =>
    obtain ⟨closed, same⟩ := h
    exact ⟨closed, congrArg (writeReg .data v) same⟩
  | _ => exact h

theorem hostWrite_sameButStores (addr width : Nat) (v : Word) (h : SameButStores s t) :
    SameButStores (hostWrite addr width v s) (hostWrite addr width v t) := by
  unfold hostWrite
  cases windowOffset addr with
  | none => exact record_sameButStores .outside h
  | some off =>
    cases adm : admitted off width with
    | false => simp only [memWrite_refused adm]; exact record_sameButStores _ h
    | true => simp only [memWrite_admitted adm]; exact record_sameButStores _ (writeReg_sameButStores _ v h)

theorem pollStatus_sameButStores (h : SameButStores s t) : SameButStores (pollStatus s) (pollStatus t) := by
  have sameStatus : statusWord t = statusWord s := h.regValue .status
  have sameAgenda : t.agenda = s.agenda := h.congr State.agenda fun _ _ _ => rfl
  cases busy : s.busy with
  | true =>
    rw [pollStatus, if_pos busy, pollStatus, if_pos (h.busy.trans busy), sameStatus, sameAgenda]
    exact record_sameButStores _ (setAgenda_sameButStores _ h)
  | false =>
    rw [pollStatus, if_neg (Bool.eq_false_iff.1 busy), pollStatus, if_neg (Bool.eq_false_iff.1 (h.busy.trans busy)), sameStatus]
    exact record_sameButStores _ h

/-- Reset gives both stores their contents anew. -/
theorem SameButStores.resetMachine_eq (h : SameButStores s t) : resetMachine t = resetMachine s :=
  h.congr resetMachine fun _ _ _ => rfl

/-! ### The engine step -/

/-- No end of a step opens a context. -/
theorem endStep_sameButStores (h : SameButStores s t) : SameButStores (endStep s) (endStep t) := by
  obtain ⟨closed, same⟩ := h
  constructor
  · rw [endStep_phase]
    split
    · decide
    · exact closed
  · generalize t.amps = amps, t.hb = hb at same
    subst same
    rw [endStep_eq, endStep_eq s]

theorem endStep_agree (h : SameButStores s t) : OutcomesRelated AgreeOutsideStores (.next (endStep s)) (.next (endStep t)) :=
  .inr (endStep_sameButStores h)

theorem raiseErr_sameButStores (c : ErrCode) (h : SameButStores s t) : SameButStores (raiseErr c s) (raiseErr c t) := by
  obtain ⟨-, same⟩ := h
  exact ⟨by rw [raiseErr_phase]; decide, congrArg (raiseErr c) same⟩

theorem rejectConfig_sameButStores (h : SameButStores s t) : SameButStores (rejectConfig s) (rejectConfig t) := by
  obtain ⟨-, same⟩ := h
  exact ⟨by rw [rejectConfig_phase]; decide, congrArg rejectConfig same⟩

/-- A legal INIT gives both stores their contents anew. -/
theorem SameButStores.openContext_eq (h : SameButStores s t) (ob : BitVec 16) : openContext ob t = openContext ob s :=
  h.congr (openContext ob) fun _ _ _ => rfl

/-- Outside an open context the command's own effect, which alone reads the stores, does not run. -/
theorem inContext_agree (f : State → Host.Outcome State Fault Refusal) (h : SameButStores s t) :
    OutcomesRelated AgreeOutsideStores (inContext s f) (inContext t f) := by
  cases phase : s.phase with
  | absorb =>
    obtain ⟨closed, -⟩ := h
    exact absurd phase closed
  | idle => rw [inContext_idle phase, inContext_idle (h.phase.trans phase)]; exact endStep_agree (raiseErr_sameButStores _ h)
  | done => rw [inContext_done phase, inContext_done (h.phase.trans phase)]; exact endStep_agree (raiseErr_sameButStores _ h)
  | error => rw [inContext_error phase, inContext_error (h.phase.trans phase)]; exact endStep_agree h

theorem exec_agree (i : Instr) (h : SameButStores s t) : OutcomesRelated AgreeOutsideStores (exec i s) (exec i t) := by
  have contextual (needs : needsContext i) : OutcomesRelated AgreeOutsideStores (exec i s) (exec i t) := by
    obtain ⟨f, run⟩ := exec_of_needsContext needs
    rw [run, run]
    exact inContext_agree f h
  cases i with
  | nop => exact endStep_agree h
  | init ob =>
    cases legal : legalOutbits ob with
    | true =>
      rw [exec_init_legal legal, exec_init_legal legal, h.openContext_eq ob]
      exact .inl rfl
    | false =>
      rw [exec_init_illegal legal, exec_init_illegal legal]
      exact endStep_agree (rejectConfig_sameButStores h)
  | absorb b => exact contextual (.inl ⟨b, rfl⟩)
  | absorbw cnt => exact contextual (.inr (.inl ⟨cnt, rfl⟩))
  | finalize => exact contextual (.inr (.inr rfl))

theorem execIllegal_agree (h : SameButStores s t) : OutcomesRelated AgreeOutsideStores (execIllegal s) (execIllegal t) := by
  refine endStep_agree ?_
  rw [h.phase]
  split
  · exact h
  · exact raiseErr_sameButStores .badCmd h

theorem engineTurn_agree (h : SameButStores s t) : OutcomesRelated AgreeOutsideStores (engineTurn s) (engineTurn t) := by
  have samePending : t.pcmd = s.pcmd := h.congr State.pcmd fun _ _ _ => rfl
  rw [engineTurn, engineTurn, h.busy, engineStep, engineStep, samePending]
  split
  · split
    · exact exec_agree _ h
    · exact execIllegal_agree h
  · exact .inr h

/-! ### The system step -/

theorem runEvent_agree (e : Event) (h : SameButStores s t) : OutcomesRelated AgreeOutsideStores (runEvent e s) (runEvent e t) := by
  cases e with
  | read addr width => exact .inr (hostRead_sameButStores addr width h)
  | write addr width v => exact .inr (hostWrite_sameButStores addr width v h)
  | wait => exact .inr (pollStatus_sameButStores h)
  | engine => exact engineTurn_agree h
  | reset => exact .inl h.resetMachine_eq.symm

theorem step_agree (h : SameButStores s t) : OutcomesRelated AgreeOutsideStores (step s) (step t) := by
  have sameAgenda : t.agenda = s.agenda := h.congr State.agenda fun _ _ _ => rfl
  cases agenda : s.agenda with
  | nil =>
    rw [step_of_agenda_nil agenda, step_of_agenda_nil (sameAgenda.trans agenda)]
    exact engineTurn_agree h
  | cons e rest =>
    rw [step_of_agenda_cons agenda, step_of_agenda_cons (sameAgenda.trans agenda)]
    exact runEvent_agree e (setAgenda_sameButStores rest h)

end ClosedStores

theorem outcomesRelated_refl {R : State → State → Prop} (hR : ∀ s, R s s) (o : Host.Outcome State Fault Refusal) :
    OutcomesRelated R o o := by
  cases o with
  | next s => exact hR s
  | fault x => exact rfl
  | refused x => exact rfl

/-- Settles O57: outside an open context only a legal INIT and reset touch the stores, and they write both anew
(`SameButStores.openContext_eq`, `SameButStores.resetMachine_eq`). Every other operation keeps the rest of the state equal and opens no
context (`step_agree`). -/
theorem closedStoresReachNothing : Obligations.ClosedStoresReachNothing := by
  unfold Obligations.ClosedStoresReachNothing
  rintro s t (rfl | h)
  · exact outcomesRelated_refl (R := AgreeOutsideStores) (fun _ => .inl rfl) (step s)
  · exact step_agree h

end Sys2Proof.Machine
